-- ==== Sys2Proof/Word.lean ====
section
/-! DEFINITION. The words of BITSCAN256: the widths of 00_scope.md R5, 10_state.md R22 and 30_encoding.md R70, R73. -/

namespace Sys2Proof

/-- The 256-bit unsigned operand `X`; bit 0 is the least significant (00_scope.md R6, R8). -/
abbrev Operand := BitVec 256

/-- An 8-bit bit index (00_scope.md R5, `IW`); also the accumulator `R`. -/
abbrev Index := BitVec 8

/-- The 4-bit stage counter `K` (10_state.md R22). -/
abbrev StageCount := BitVec 4

/-- The 257-bit command word `CMD` (30_encoding.md R70). -/
abbrev CmdWord := BitVec 257

/-- The 9-bit response word `RSP` (30_encoding.md R73). -/
abbrev RspWord := BitVec 9

end Sys2Proof
end

