-- ==== Sys2Proof/Syntax.lean ====
section
/-! DEFINITION. The commands of BITSCAN256, one constructor per row of the opcode table (30_encoding.md R75), and the
assembler's literals (30_encoding.md R78). -/

namespace Sys2Proof

/-- The operation select (30_encoding.md R75). -/
inductive Op where
  /-- bit-scan-forward, `op = 0` -/
  | bsf
  /-- bit-scan-reverse, `op = 1` -/
  | bsr
deriving DecidableEq, Repr

/-- A command: an operation and its 256-bit operand (30_encoding.md R70, R74). -/
inductive Instr where
  /-- `BSF <X>` (42_bsf.md R140) -/
  | bsf (x : Operand)
  /-- `BSR <X>` (41_bsr.md R120) -/
  | bsr (x : Operand)
deriving DecidableEq, Repr

/-- The operation a command selects. -/
def Instr.op : Instr → Op
  | .bsf _ => .bsf
  | .bsr _ => .bsr

/-- The operand a command carries, taken whole (30_encoding.md R72). -/
def Instr.operand : Instr → Operand
  | .bsf x => x
  | .bsr x => x

/-- The literal forms of 30_encoding.md R78, before any check of range. -/
inductive Literal where
  /-- an unsigned decimal number -/
  | decimal (n : Nat)
  /-- `0x` and hex digits, the most significant first -/
  | hex (digits : List (Fin 16))
  /-- `2^n` -/
  | pow (n : Nat)
  /-- `2^n - 1` -/
  | powMinusOne (n : Nat)
  /-- `2^n + 2^m` -/
  | powSum (n m : Nat)
deriving DecidableEq, Repr

/-- One assembler line: a mnemonic and a literal (30_encoding.md R78). -/
structure AsmLine where
  op : Op
  literal : Literal
deriving DecidableEq, Repr

end Sys2Proof
end

