-- ==== Sys2Proof/WellFormed.lean ====
section
/-! DEFINITION. Which terms of the syntax are legal. Every command is (30_encoding.md R76); a literal must fit the forms
and the range of 30_encoding.md R78. -/

namespace Sys2Proof

/-- Every command is well-formed: its operand is any 256-bit value (20_memory.md R53, 30_encoding.md R76). -/
def Instr.wellFormed : Instr → Bool
  | .bsf _ => true
  | .bsr _ => true

/-- The number a literal denotes. -/
def Literal.value : Literal → Nat
  | .decimal n => n
  | .hex digits => digits.foldl (fun acc d => 16 * acc + d.val) 0
  | .pow n => 2 ^ n
  | .powMinusOne n => 2 ^ n - 1
  | .powSum n m => 2 ^ n + 2 ^ m

/-- The bounds each literal form sets on its own parts (30_encoding.md R78): at most 64 hex digits, exponents up to 255,
and `2^256 - 1` as the one exception. -/
def Literal.formOk : Literal → Bool
  | .decimal _ => true
  | .hex digits => decide (digits ≠ []) && decide (digits.length ≤ 64)
  | .pow n => decide (n ≤ 255)
  | .powMinusOne n => decide (n ≤ 256)
  | .powSum n m => decide (n ≤ 255) && decide (m ≤ 255)

/-- A literal the assembler accepts: a form of 30_encoding.md R78 whose value lies in `[0, 2^256 - 1]`. -/
def Literal.wellFormed (l : Literal) : Bool := l.formOk && decide (l.value < 2 ^ 256)

/-- A line is well-formed when its literal is. -/
def AsmLine.wellFormed (l : AsmLine) : Bool := l.literal.wellFormed

end Sys2Proof
end

