-- ==== Sys2Proof/Decode.lean ====
section
/-! DEFINITION. The command word and its decoder and encoder (30_encoding.md R70 to R77, `spec/opcode_table.json`). -/

namespace Sys2Proof

/-- Why a number of bits is no command word. -/
inductive DecodeError where
  /-- A bit above `CMD[256]` is set: every command is exactly 257 bits long (30_encoding.md R70, R77). -/
  | longerThanCommand
deriving DecidableEq, Repr

/-- The operation the bit `op` selects: 0 is BSF, 1 is BSR (30_encoding.md R75). -/
def Op.ofBit : Bool → Op
  | false => .bsf
  | true => .bsr

/-- The bit `op` of an operation (30_encoding.md R75). -/
def Op.bit : Op → Bool
  | .bsf => false
  | .bsr => true

/-- The command an operation and an operand make. -/
def Op.command : Op → Operand → Instr
  | .bsf, x => .bsf x
  | .bsr, x => .bsr x

/-- Field `op`, `CMD[256]` (30_encoding.md R70, R71). -/
def cmdOp (cmd : CmdWord) : Bool := cmd.getLsbD 256

/-- Field `X`, `CMD[255:0]`, bit for bit (30_encoding.md R70, R72). -/
def cmdX (cmd : CmdWord) : Operand := cmd.extractLsb' 0 256

/-- The command word `{op, X}` (30_encoding.md R70). -/
def packCommand (op : Bool) (x : Operand) : CmdWord := BitVec.ofBool op ++ x

/-- Every 257-bit word decodes to exactly one command (30_encoding.md R75, R76). -/
def decodeWord (cmd : CmdWord) : Instr := (Op.ofBit (cmdOp cmd)).command (cmdX cmd)

/-- The number of 257-bit words, `2^257`. -/
def commandWords : Nat := 0x20000000000000000000000000000000000000000000000000000000000000000

/-- `commandWords` is `2^257`. -/
theorem commandWords_eq : commandWords = 2 ^ 257 := by decide +kernel

/-- The decoder on any number of bits, refusing by name what is no 257-bit word. -/
def decode (bits : Nat) : Except DecodeError Instr :=
  if h : bits < commandWords then .ok (decodeWord (BitVec.ofNatLT bits (commandWords_eq ▸ h)))
  else .error .longerThanCommand

/-- The command word of a command (30_encoding.md R70, R75). -/
def encode (i : Instr) : CmdWord := packCommand i.op.bit i.operand

/-- The bits the opcode table's numbering gives: `w` below bit `nbits`, zero above. -/
def tableBits (nbits w : Nat) : Nat := if w >>> nbits = 0 then w else w % 2 ^ nbits

/-- The instruction the decoder reads from a word numbered as the opcode table numbers it. -/
def decodeTableWord (nbits w : Nat) : Option Instr :=
  match decode (tableBits nbits w) with
  | .ok i => some i
  | .error _ => none

end Sys2Proof
end

