-- ==== Sys2Proof/Machine/Encoder.lean ====
section
/-! DEFINITION. The binary-search bit-position encoder: windows, constants, stage functions and the stage schedule
(40_encoder.md R100 to R110, 41_bsr.md R121 to R123, 42_bsf.md R141, R142). -/

namespace Sys2Proof.Machine

/-- The pair `(W, R)` a stage reads and writes (10_state.md R42). -/
structure Datapath where
  w : Operand
  r : Index
deriving DecidableEq, Repr

/-- `w_k = 2^(7-k)`, the window width of stage `k`, `k = 0..7` (40_encoder.md R100). -/
def window (k : Nat) : Nat := 2 ^ (7 - k)

/-- The BSR threshold `2^(w_k)` (40_encoder.md R101). -/
def threshold (k : Nat) : Nat := 2 ^ window k

/-- The BSF mask `2^(w_k) - 1` (40_encoder.md R101). -/
def mask (k : Nat) : Operand := BitVec.ofNat 256 (2 ^ window k - 1)

/-- BSR stage `k`: shifting for `k = 0..6` (41_bsr.md R122), not shifting for `k = 7` (41_bsr.md R123). -/
def stageBsr (k : Nat) (d : Datapath) : Datapath :=
  if threshold k ≤ d.w.toNat then
    { w := if k < 7 then d.w >>> window k else d.w, r := d.r + BitVec.ofNat 8 (window k) }
  else d

/-- BSF stage `k` (42_bsf.md R142); the last stage shifts like the others (90_conflicts.md C6). -/
def stageBsf (k : Nat) (d : Datapath) : Datapath :=
  if d.w &&& mask k ≠ 0 then
    { w := d.w, r := d.r - BitVec.ofNat 8 (window k) }
  else
    { w := d.w >>> window k, r := d.r }

/-- `stage_OPQ(k, W, R)` (40_encoder.md R110). It is meant for `k = 0..7` alone; `advance` asks for no other. -/
def stage : Op → Nat → Datapath → Datapath
  | .bsf => stageBsf
  | .bsr => stageBsr

/-- `n` consecutive stages from stage `k` on, each reading what the one before it produced (10_state.md R42,
40_encoder.md R104). -/
def runStages (op : Op) : Nat → Nat → Datapath → Datapath
  | 0, _, d => d
  | n + 1, k, d => runStages op n (k + 1) (stage op k d)

/-- The accumulator an accept starts from: 255 for BSF (42_bsf.md R141), 0 for BSR (41_bsr.md R121). -/
def initialAccumulator : Op → Index
  | .bsf => 0xFF
  | .bsr => 0x00

/-- The datapath right after the accept of `(op, X)` (10_state.md R41). -/
def initialDatapath (op : Op) (x : Operand) : Datapath := { w := x, r := initialAccumulator op }

end Sys2Proof.Machine
end

