-- ==== Sys2Proof/Machine/Flags.lean ====
section
/-! DEFINITION. The zero detector, the one status flag, the result selection and the two outcomes (10_state.md R27,
40_encoder.md R102, R103, R108, 60_exceptions.md R160, R161). -/

namespace Sys2Proof.Machine

/-- `X == 0` (40_encoder.md R102), computed at the accept edge alone (R103). -/
def zeroDetect (x : Operand) : Bool := x == 0

/-- The index written at completion: `0x00` on a zero operand, else the accumulator (40_encoder.md R108). -/
def resultIndex (zq : Bool) (r : Index) : Index := if zq then 0x00 else r

/-- The two outcomes of a completed command (60_exceptions.md R160). -/
inductive ScanResult where
  /-- success, with the bit index -/
  | index (i : Index)
  /-- the one failure: the operand is zero (60_exceptions.md R161) -/
  | zeroValue
deriving DecidableEq, Repr

/-- The outcome the pair `(zero, idx)` presents (60_exceptions.md R160). -/
def ScanResult.ofFlags (zero : Bool) (idx : Index) : ScanResult := if zero then .zeroValue else .index idx

/-- The response word `{zero, idx}` (30_encoding.md R73). -/
def responseWord (zero : Bool) (idx : Index) : RspWord := BitVec.ofBool zero ++ idx

/-- The outcome of a whole command, eight stages and the result selection, with the cycles abstracted away
(10_state.md R48, 41_bsr.md R120, 42_bsf.md R140). -/
def scan (op : Op) (x : Operand) : ScanResult :=
  ScanResult.ofFlags (zeroDetect x) (resultIndex (zeroDetect x) (runStages op 8 0 (initialDatapath op x)).r)

end Sys2Proof.Machine
end

