-- ==== Sys2Proof/Config.lean ====
section
/-! DEFINITION. What an implementation fixes (`SPC`), and the free values: constants without a body, standing for every
value the spec leaves unspecified (93_implementation_defined.md I1, I2) and for the host's port values that State's own
input list does not give. -/

namespace Sys2Proof

/-- `SPC`, stages per clock cycle: one of 1, 2, 4, 8 (00_scope.md R5, 40_encoder.md R104). -/
inductive Spc where
  | one | two | four | eight
deriving DecidableEq, Repr

/-- The number of stages one busy edge runs (10_state.md R42). -/
def Spc.stages : Spc → Nat
  | .one => 1
  | .two => 2
  | .four => 4
  | .eight => 8

/-- `L = 8 / SPC`, edges from accept to completion (00_scope.md R5, 10_state.md R43). -/
def Spc.latency (c : Spc) : Nat := 8 / c.stages

namespace Config

/-- Draws for the registers a reset edge leaves unspecified (10_state.md R28) and that are unspecified before the first
reset (70_reset_and_hazards.md R182). Each is applied to State's counter of draws. -/
opaque freeW : Nat → Operand
opaque freeR : Nat → Index
opaque freeK : Nat → StageCount
opaque freeOpq : Nat → Bool
opaque freeZq : Nat → Bool

/-- Draws for the registers that are unspecified only before the first reset (70_reset_and_hazards.md R182). -/
opaque freeBusy : Nat → Bool
opaque freeValid : Nat → Bool
opaque freeRidx : Nat → Index
opaque freeRzero : Nat → Bool

/-- Draws for the host's port values at an edge for which State lists none (assumption log 2). -/
opaque freeRstPort : Nat → Bool
opaque freeStartPort : Nat → Bool
opaque freeOpPort : Nat → Bool
opaque freeXPort : Nat → Operand

end Config
end Sys2Proof
end

