-- ==== Sys2Proof/Machine/State.lean ====
section
/-! DEFINITION. The architectural state of BITSCAN256 (10_state.md R20 to R31), its state after reset and before any
reset, and the reasons a step can stop. -/

namespace Sys2Proof.Machine

/-- The input ports sampled at one rising edge (10_state.md R20, R29). Each is two-valued (93_implementation_defined.md
I6). The field `x` is the port `X`. -/
structure Inputs where
  rst : Bool
  start : Bool
  op : Bool
  x : Operand
deriving DecidableEq, Repr

/-- Everything the spec gives the block, then the model's own three fields. One-bit registers are `Bool`, true for 1;
`opq` is the operation its bit selects (30_encoding.md R75). -/
structure State where
  /-- `SPC`, a constant of the block (00_scope.md R5, assumption log 3) -/
  spc : Spc
  /-- `W`, the working value (10_state.md R22) -/
  w : Operand
  /-- `R`, the index accumulator (10_state.md R22) -/
  r : Index
  /-- `K`, the next stage to run (10_state.md R22, R23) -/
  k : StageCount
  /-- `OPQ`, the accepted operation (10_state.md R22) -/
  opq : Op
  /-- `ZQ`, the accepted operand was zero (10_state.md R22) -/
  zq : Bool
  /-- `BUSY` (10_state.md R24) -/
  busy : Bool
  /-- `VALID` (10_state.md R24) -/
  valid : Bool
  /-- `RIDX` (10_state.md R25) -/
  ridx : Index
  /-- `RZERO` (10_state.md R25, R27) -/
  rzero : Bool
  /-- The model's own: a reset edge has occurred (70_reset_and_hazards.md R182, R184; assumption log 6) -/
  booted : Bool
  /-- The model's own: the host's port values at the coming edges, the next first (10_state.md R47; assumption log 2) -/
  inputs : List Inputs
  /-- The model's own: free values drawn so far (assumption logs 2, 5, 6) -/
  draws : Nat
deriving DecidableEq, Repr

/-- Why the machine stops. -/
inductive Fault where
  /-- Raised by a busy edge whose schedule would run a stage above 7, for which `stage_OPQ` is not defined
  (40_encoder.md R110). No run from reset reaches it. Safe: the model stops where the spec gives no meaning. -/
  | stageUndefined
deriving DecidableEq, Repr

/-- Why an instruction has no meaning. -/
inductive Refusal where
  /-- Raised by an arm of `exec` whose instruction has no meaning yet; no arm is such a one. Safe. -/
  | notModelled (mnemonic : String)
deriving DecidableEq, Repr

/-- The block right after reset (10_state.md R28, 70_reset_and_hazards.md R180), at the reference value of `SPC`
(00_scope.md R5). `w`, `r`, `k`, `opq` and `zq` are unspecified there: their zeros are a DESIGN CHOICE (unsafe,
assumption log 4), as are the empty input list (log 2) and the draw counter's start (log 5). -/
def State.reset : State where
  spc := .eight
  w := 0
  r := 0
  k := 0
  opq := .bsf
  zq := false
  busy := false
  valid := false
  ridx := 0
  rzero := false
  booted := true
  inputs := []
  draws := 0

/-- The block between power-up and its first reset edge: every register holds an unspecified value
(70_reset_and_hazards.md R182). -/
def State.powerUp (spc : Spc) (inputs : List Inputs) (n : Nat) : State where
  spc := spc
  w := Config.freeW n
  r := Config.freeR n
  k := Config.freeK n
  opq := Op.ofBit (Config.freeOpq n)
  zq := Config.freeZq n
  busy := Config.freeBusy n
  valid := Config.freeValid n
  ridx := Config.freeRidx n
  rzero := Config.freeRzero n
  booted := false
  inputs := inputs
  draws := n + 1

end Sys2Proof.Machine
end

