-- ==== Sys2Proof/Machine/Operands.lean ====
section
/-! DEFINITION. Operand assembly: the one operand form, the command word on the ports, and what the sampled ports ask of
the block at an edge (30_encoding.md R70 to R76, 10_state.md R40). -/

namespace Sys2Proof.Machine

/-- The command word on the ports `{op, X}` (30_encoding.md R70). -/
def Inputs.commandWord (p : Inputs) : CmdWord := packCommand p.op p.x

/-- Port values that present a command: its word on `{op, X}` with `start = 1` and no reset (30_encoding.md R70, R75). -/
def Inputs.presenting (i : Instr) : Inputs :=
  { rst := false, start := true, op := i.op.bit, x := i.operand }

/-- What the ports ask at an edge. -/
inductive EdgeRequest where
  /-- `rst = 1`, which overrides everything (60_exceptions.md R165) -/
  | reset
  /-- `start = 1` with a command word on `{op, X}` -/
  | command (i : Instr)
  /-- `start = 0`: no command, no encoding (30_encoding.md R76) -/
  | noCommand
deriving DecidableEq, Repr

/-- The request the sampled ports make, in the priority of 60_exceptions.md R165; the operand and the operation are
decoded from the command word (30_encoding.md R74, R75). -/
def Inputs.request (p : Inputs) : EdgeRequest :=
  if p.rst then .reset
  else if p.start then .command (decodeWord p.commandWord)
  else .noCommand

end Sys2Proof.Machine
end

