-- ==== Sys2Proof/Machine/Ops.lean ====
section
/-! DEFINITION. The operations of one rising edge of `clk`: sampling the ports, reset, accept, advance, completion, hold,
and the output ports (10_state.md R26, R40 to R46; 70_reset_and_hazards.md R180 to R182). The block takes no exception
(60_exceptions.md R162, R166): its one failure, `ZeroValue`, is what `complete` reports. It has no memory
(20_memory.md R50). -/

namespace Sys2Proof.Machine

/-! ### Output ports -/

/-- `ready = NOT BUSY` (10_state.md R26). -/
def State.ready (s : State) : Bool := !s.busy

/-- What a host observes: the output ports (10_state.md R26, R47). -/
structure Outputs where
  ready : Bool
  valid : Bool
  idx : Index
  zero : Bool
deriving DecidableEq, Repr

/-- The output ports, driven from registers alone (10_state.md R26). -/
def State.outputs (s : State) : Outputs :=
  { ready := s.ready, valid := s.valid, idx := s.ridx, zero := s.rzero }

/-- The outcome presented while `valid = 1`; none while `valid = 0` (60_exceptions.md R160, 70_reset_and_hazards.md
R185). -/
def State.result (s : State) : Option ScanResult :=
  if s.valid then some (ScanResult.ofFlags s.rzero s.ridx) else none

/-- The response word presented while `valid = 1` (30_encoding.md R73). -/
def State.response (s : State) : Option RspWord :=
  if s.valid then some (responseWord s.rzero s.ridx) else none

/-! ### Sampling the ports -/

/-- Port values the host drives where State lists none: free values (assumption log 2). -/
def freeInputs (n : Nat) : Inputs :=
  { rst := Config.freeRstPort n, start := Config.freeStartPort n, op := Config.freeOpPort n, x := Config.freeXPort n }

/-- The port values sampled at the coming edge (10_state.md R29). -/
def State.sampled (s : State) : Inputs :=
  match s.inputs with
  | [] => freeInputs s.draws
  | p :: _ => p

/-- The state once the ports are sampled: the entry, or the draw, is used up; no register changes. -/
def State.afterSample (s : State) : State :=
  match s.inputs with
  | [] => { s with draws := s.draws + 1 }
  | _ :: rest => { s with inputs := rest }

/-- `s` with a command word put on the ports at the coming edge, `rst = 0` and `start = 1` (30_encoding.md R70). Bits that
are no command word cannot be put on the 257 wires and leave `s` as it is (assumption log 9). -/
def placeCommand (bits : Nat) (s : State) : State :=
  match decode bits with
  | .ok i => { s with inputs := Inputs.presenting i :: s.inputs.tail }
  | .error _ => s

/-! ### The cases of the clock-edge step -/

/-- A reset edge (10_state.md R28, 70_reset_and_hazards.md R180): the control and result registers are cleared, and
`W`, `R`, `K`, `OPQ` and `ZQ` are unspecified, each a fresh draw (93_implementation_defined.md I1). -/
def resetEdge (s : State) : State :=
  { s with
    busy := false, valid := false, ridx := 0x00, rzero := false
    w := Config.freeW s.draws, r := Config.freeR s.draws, k := Config.freeK s.draws
    opq := Op.ofBit (Config.freeOpq s.draws), zq := Config.freeZq s.draws
    booted := true, draws := s.draws + 1 }

/-- An edge with `rst = 0` before the first reset edge: every register still holds an unspecified value
(70_reset_and_hazards.md R182), each a fresh draw. -/
def unspecifiedEdge (s : State) : State :=
  { s with
    w := Config.freeW s.draws, r := Config.freeR s.draws, k := Config.freeK s.draws
    opq := Op.ofBit (Config.freeOpq s.draws), zq := Config.freeZq s.draws
    busy := Config.freeBusy s.draws, valid := Config.freeValid s.draws
    ridx := Config.freeRidx s.draws, rzero := Config.freeRzero s.draws
    draws := s.draws + 1 }

/-- Accept (10_state.md R41): the operand and the operation are captured whole; `RIDX` and `RZERO` are unchanged. -/
def accept (op : Op) (x : Operand) (s : State) : State :=
  { s with
    opq := op, zq := zeroDetect x, w := x, r := initialAccumulator op, k := 0
    busy := true, valid := false }

/-- The datapath registers as one pair. -/
def State.datapath (s : State) : Datapath := { w := s.w, r := s.r }

/-- The datapath after the stages of one busy edge (10_state.md R42). -/
def State.staged (s : State) : Datapath := runStages s.opq s.spc.stages s.k.toNat s.datapath

/-- The register writes of every advance edge: `W`, `R`, and `K <- K + SPC` (10_state.md R42). -/
def storeStages (d : Datapath) (s : State) : State :=
  { s with w := d.w, r := d.r, k := s.k + BitVec.ofNat 4 s.spc.stages }

/-- Completion (10_state.md R43), with `r` the accumulator after stage 7. This is where `ZeroValue` is reported
(60_exceptions.md R161). -/
def complete (r : Index) (s : State) : State :=
  { s with rzero := s.zq, ridx := resultIndex s.zq r, valid := true, busy := false }

/-- Advance (10_state.md R42): `SPC` stages, and the completion on the same edge when stage 7 is among them (R43).
A schedule that would leave stages 0 to 7 has no meaning (40_encoder.md R110) and faults. -/
def advance (s : State) : Host.Outcome State Fault Refusal :=
  if s.k.toNat + s.spc.stages < 8 then .next (storeStages s.staged s)
  else if s.k.toNat + s.spc.stages = 8 then .next (complete s.staged.r (storeStages s.staged s))
  else .fault .stageUndefined

/-- The edge at which a command is presented, `rst = 0` and `start = 1`: accepted when the block is idle, dropped while
it is busy (10_state.md R40, R41, R45), and without meaning before the first reset (70_reset_and_hazards.md R182). -/
def presentCommand (op : Op) (x : Operand) (s : State) : Host.Outcome State Fault Refusal :=
  if s.booted then
    if s.busy then advance s else .next (accept op x s)
  else .next (unspecifiedEdge s)

/-- The edge with `rst = 0` and `start = 0`: advance while busy, else hold (10_state.md R40, R42, R44). -/
def edgeWithoutCommand (s : State) : Host.Outcome State Fault Refusal :=
  if s.booted then
    if s.busy then advance s else .next s
  else .next (unspecifiedEdge s)

end Sys2Proof.Machine
end

