-- ==== Sys2Proof/Machine/Bsf.lean ====
section
/-! DEFINITION. The meaning of BSF (42_bsf.md R140) at the edge that presents it. -/

namespace Sys2Proof.Machine

/-- `BSF <X>` presented at an edge: accepted with `OPQ` = BSF and `R` = 255 (10_state.md R41, 42_bsf.md R141). Its eight
stages (42_bsf.md R142) and its completion run at the busy edges that follow (10_state.md R42, R43). -/
def execBsf (x : Operand) (s : State) : Host.Outcome State Fault Refusal := presentCommand .bsf x s

end Sys2Proof.Machine
end

