-- ==== Sys2Proof/Machine/Bsr.lean ====
section
/-! DEFINITION. The meaning of BSR (41_bsr.md R120) at the edge that presents it. -/

namespace Sys2Proof.Machine

/-- `BSR <X>` presented at an edge: accepted with `OPQ` = BSR and `R` = 0 (10_state.md R41, 41_bsr.md R121). Its eight
stages (41_bsr.md R122, R123) and its completion run at the busy edges that follow (10_state.md R42, R43). -/
def execBsr (x : Operand) (s : State) : Host.Outcome State Fault Refusal := presentCommand .bsr x s

end Sys2Proof.Machine
end

