-- ==== Sys2Proof/Machine/Dispatch.lean ====
section
/-! DEFINITION. The dispatch from a command to its meaning. -/

namespace Sys2Proof.Machine

def exec (i : Instr) (s : State) : Host.Outcome State Fault Refusal :=
  match i with
  | .bsf x => Sys2Proof.Machine.execBsf x s
  | .bsr x => Sys2Proof.Machine.execBsr x s

end Sys2Proof.Machine
end

