-- ==== Sys2Proof/Machine/Step.lean ====
section
/-! DEFINITION. One step of the machine: one rising edge of `clk` (10_state.md R29, R40), and the placing of a command
on the ports. -/

namespace Sys2Proof.Machine

/-- One rising edge: the ports are sampled, then a reset, a presented command, or an edge without a command
(10_state.md R40, 60_exceptions.md R165). -/
def step (s : State) : Host.Outcome State Fault Refusal :=
  match s.sampled.request with
  | .reset => .next (resetEdge s.afterSample)
  | .command i => exec i s.afterSample
  | .noCommand => edgeWithoutCommand s.afterSample

/-- `s` with the instruction of a word, numbered as the opcode table numbers it, on the ports at the coming edge. -/
def State.withFetchWord (s : State) (nbits w : Nat) : State := placeCommand (tableBits nbits w) s

end Sys2Proof.Machine
end

