-- ==== Sys2Proof/Machine/Assembler.lean ====
section
/-! DEFINITION. The assembler syntax of 30_encoding.md R78: reading `BSF <X>` and `BSR <X>`, and writing a result. Text is
a list of characters. There are no pseudo-instructions (30_encoding.md R79). -/

namespace Sys2Proof.Machine

/-- Why the assembler refuses a line. -/
inductive AsmError where
  /-- The text is neither `BSF <X>` nor `BSR <X>` with `<X>` of a literal form of 30_encoding.md R78. -/
  | notALine
  /-- The literal breaks a bound of 30_encoding.md R78. -/
  | literalOutOfRange
deriving DecidableEq, Repr

/-- The operand a literal stands for; none where 30_encoding.md R78 refuses it. -/
def literalOperand (l : Literal) : Option Operand :=
  if l.wellFormed then some (BitVec.ofNat 256 l.value) else none

/-- The command an assembler line stands for. -/
def assembleLine (l : AsmLine) : Except AsmError Instr :=
  match literalOperand l.literal with
  | some x => .ok (l.op.command x)
  | none => .error .literalOutOfRange

/-- The value of a decimal digit. -/
def decimalDigit (c : Char) : Option Nat :=
  if '0' ≤ c ∧ c ≤ '9' then some (c.toNat - '0'.toNat) else none

/-- The value of a hex digit, of either case (assumption log 13). -/
def hexDigit (c : Char) : Option (Fin 16) :=
  if '0' ≤ c ∧ c ≤ '9' then some (Fin.ofNat 16 (c.toNat - '0'.toNat))
  else if 'a' ≤ c ∧ c ≤ 'f' then some (Fin.ofNat 16 (c.toNat - 'a'.toNat + 10))
  else if 'A' ≤ c ∧ c ≤ 'F' then some (Fin.ofNat 16 (c.toNat - 'A'.toNat + 10))
  else none

/-- An unsigned decimal number: one digit or more and nothing else. -/
def parseDecimal (cs : List Char) : Option Nat :=
  if cs.isEmpty then none
  else (cs.mapM decimalDigit).map (fun ds => ds.foldl (fun acc d => 10 * acc + d) 0)

/-- Hex digits: one or more and nothing else. -/
def parseHex (cs : List Char) : Option (List (Fin 16)) :=
  if cs.isEmpty then none else cs.mapM hexDigit

/-- What follows the exponent of a power: `- 1` or `+ 2^m`, with or without the spaces (assumption log 13). -/
def parseAfterExponent (n : Nat) : List Char → Option Literal
  | [] => some (.pow n)
  | [' ', '-', ' ', '1'] => some (.powMinusOne n)
  | ['-', '1'] => some (.powMinusOne n)
  | ' ' :: '+' :: ' ' :: '2' :: '^' :: cs => (parseDecimal cs).map (.powSum n)
  | '+' :: '2' :: '^' :: cs => (parseDecimal cs).map (.powSum n)
  | _ => none

/-- A literal in one of the forms of 30_encoding.md R78. -/
def parseLiteral : List Char → Option Literal
  | '0' :: 'x' :: cs => (parseHex cs).map .hex
  | '2' :: '^' :: cs =>
    (parseDecimal (cs.takeWhile (fun c => decide (c ≠ ' ' ∧ c ≠ '+' ∧ c ≠ '-')))).bind
      (fun n => parseAfterExponent n (cs.dropWhile (fun c => decide (c ≠ ' ' ∧ c ≠ '+' ∧ c ≠ '-'))))
  | cs => (parseDecimal cs).map .decimal

/-- A mnemonic, one space and a literal. -/
def parseLine : List Char → Option AsmLine
  | 'B' :: 'S' :: 'F' :: ' ' :: cs => (parseLiteral cs).map (fun l => ⟨.bsf, l⟩)
  | 'B' :: 'S' :: 'R' :: ' ' :: cs => (parseLiteral cs).map (fun l => ⟨.bsr, l⟩)
  | _ => none

/-- The command a line of text stands for (30_encoding.md R78). -/
def assemble (cs : List Char) : Except AsmError Instr :=
  match parseLine cs with
  | some l => assembleLine l
  | none => .error .notALine

/-- A result as 30_encoding.md R78 writes it: `-> idx=<i>` or `-> ZeroValue`. -/
def showResult : ScanResult → List Char
  | .index i => ['-', '>', ' ', 'i', 'd', 'x', '='] ++ Nat.toDigits 10 i.toNat
  | .zeroValue => ['-', '>', ' ', 'Z', 'e', 'r', 'o', 'V', 'a', 'l', 'u', 'e']

end Sys2Proof.Machine
end

