-- ==== Sys2Proof/Machine/Bank.lean ====
section
/-! DEFINITION. Several instances of the block side by side (60_exceptions.md R169): each has its own registers and its own
ports, and nothing is shared. -/

namespace Sys2Proof.Machine

/-- One rising edge of instance `n`'s clock. An instance that has stopped stays as it is. -/
def clockInstance (n : Nat) (bank : List State) : List State :=
  match bank[n]? with
  | none => bank
  | some s =>
    match step s with
    | .next t => bank.set n t
    | .fault _ => bank
    | .refused _ => bank

/-- A run of the bank in which the instances named take an edge, in that order. -/
def runBank : List Nat → List State → List State
  | [], bank => bank
  | n :: order, bank => runBank order (clockInstance n bank)

end Sys2Proof.Machine
end

