-- ==== Sys2Proof/Safety.lean ====
section
/-! DEFINITION. The terms the claims use: the closed forms of the results (00_scope.md R9), runs of the machine and what
the host does along them, the legal states, and a command in flight. -/

namespace Sys2Proof.Machine

/-! ### Closed forms -/

/-- `m = msb(X)`: `2^m <= X < 2^(m+1)` (00_scope.md R9). -/
abbrev IsMsb (x : Operand) (m : Nat) : Prop := 2 ^ m ≤ x.toNat ∧ x.toNat < 2 ^ (m + 1)

/-- `m = lsb(X)`: bit `m` is set and every lower bit is clear (00_scope.md R9). -/
abbrev IsLsb (x : Operand) (m : Nat) : Prop := x.getLsbD m = true ∧ ∀ j < m, x.getLsbD j = false

/-- The closed form that belongs to an operation. -/
abbrev IsScanIndex : Op → Operand → Nat → Prop
  | .bsf => IsLsb
  | .bsr => IsMsb

/-- The pair `(zero, idx)` that 10_state.md R48 gives for a command. -/
def IsResultOf (op : Op) (x : Operand) (zero : Bool) (idx : Index) : Prop :=
  (x = 0 → zero = true ∧ idx = 0x00) ∧ (x ≠ 0 → zero = false ∧ IsScanIndex op x idx.toNat)

/-- The total shift BSF applies to `W` in its first `k` stages, `O_k` (42_bsf.md R143). -/
def bsfShift (x : Operand) : Nat → Nat
  | 0 => 0
  | k + 1 =>
    if (runStages .bsf k 0 (initialDatapath .bsf x)).w &&& mask k ≠ 0 then bsfShift x k
    else bsfShift x k + window k

/-! ### Runs -/

/-- The state after `n` rising edges, or the first stop. -/
def runEdges : Nat → State → Host.Outcome State Fault Refusal
  | 0, s => .next s
  | n + 1, s =>
    match step s with
    | .next t => runEdges n t
    | .fault f => .fault f
    | .refused r => .refused r

/-- The ports sampled at each of the next `n` edges satisfy `p`. -/
def PortsFor (p : Inputs → Prop) : Nat → State → Prop
  | 0, _ => True
  | n + 1, s => p s.sampled ∧ ∀ t, step s = .next t → PortsFor p n t

/-- No reset occurs during the next `n` edges. -/
abbrev NoResetFor : Nat → State → Prop := PortsFor (fun p => p.rst = false)

/-- Neither a reset nor a `start` occurs during the next `n` edges. -/
abbrev QuietFor : Nat → State → Prop := PortsFor (fun p => p.rst = false ∧ p.start = false)

/-! ### Assembler texts -/

/-- `cs` is one decimal digit or more and nothing else, and `n` is the number they write. -/
def DecimalText (cs : List Char) (n : Nat) : Prop :=
  ∃ ds : List (Fin 10), ds ≠ [] ∧ cs = ds.map (fun d => Nat.digitChar d.val) ∧
    n = Nat.ofDigits 10 (ds.map Fin.val).reverse

/-- `cs` is 1 to 64 hex digits, each of either case (assumption log 13), and `n` is the number they write. -/
def HexText (cs : List Char) (n : Nat) : Prop :=
  ∃ ds : List (Fin 16), ds ≠ [] ∧ ds.length ≤ 64 ∧
    List.Forall₂ (fun c d => c = Nat.digitChar d.val ∨ c = (Nat.digitChar d.val).toUpper) cs ds ∧
    n = Nat.ofDigits 16 (ds.map Fin.val).reverse

/-- The texts 30_encoding.md R78 allows for `<X>`, each with its value, said without the reader: a decimal number, `0x` and
hex digits, `2^n`, `2^n - 1`, `2^n + 2^m`, within the bounds of the rule. That the spaces may be left out is assumption log
13. -/
inductive LiteralText : List Char → Nat → Prop where
  | decimal {cs : List Char} {n : Nat} : DecimalText cs n → n < 2 ^ 256 → LiteralText cs n
  | hex {cs : List Char} {n : Nat} : HexText cs n → LiteralText ('0' :: 'x' :: cs) n
  | pow {e : List Char} {n : Nat} : DecimalText e n → n ≤ 255 → LiteralText ('2' :: '^' :: e) (2 ^ n)
  | powMinusOne {e minusOne : List Char} {n : Nat} : DecimalText e n → n ≤ 256 →
      minusOne = [' ', '-', ' ', '1'] ∨ minusOne = ['-', '1'] →
      LiteralText ('2' :: '^' :: (e ++ minusOne)) (2 ^ n - 1)
  | powSum {e plusTwoTo f : List Char} {n m : Nat} : DecimalText e n → DecimalText f m → n ≤ 255 → m ≤ 255 →
      2 ^ n + 2 ^ m < 2 ^ 256 →
      plusTwoTo = [' ', '+', ' ', '2', '^'] ∨ plusTwoTo = ['+', '2', '^'] →
      LiteralText ('2' :: '^' :: (e ++ plusTwoTo ++ f)) (2 ^ n + 2 ^ m)

/-! ### Legal states -/

/-- `K` is a multiple of `SPC` in `[0, 8 - SPC]`, its legal values while `BUSY = 1` (10_state.md R23). -/
abbrev LegalSchedule (s : State) : Prop := s.k.toNat % s.spc.stages = 0 ∧ s.k.toNat + s.spc.stages ≤ 8

/-- The legal states: once a reset edge has occurred, a busy block has a legal `K` (10_state.md R23) and presents no
valid result (R24), and a failure carries the index `0x00` (R25). -/
abbrev Legal (s : State) : Prop :=
  s.booted = true →
    (s.busy = true → LegalSchedule s ∧ s.valid = false) ∧ (s.rzero = true → s.ridx = 0x00)

/-- The command `(op, X)` is in flight: its operation and zero test are latched, and `(W, R)` hold what its first `K`
stages made (10_state.md R41, R42). -/
structure InFlight (op : Op) (x : Operand) (s : State) : Prop where
  booted : s.booted = true
  busy : s.busy = true
  notValid : s.valid = false
  schedule : LegalSchedule s
  opLatched : s.opq = op
  zeroLatched : s.zq = zeroDetect x
  staged : s.datapath = runStages op s.k.toNat 0 (initialDatapath op x)

/-- Two idle states of one block that differ at most in `W`, `R`, `K`, `OPQ` and `ZQ` (10_state.md R30). -/
structure IdleAlike (a b : State) : Prop where
  booted : a.booted = true ∧ b.booted = true
  idle : a.busy = false ∧ b.busy = false
  spc : a.spc = b.spc
  valid : a.valid = b.valid
  ridx : a.ridx = b.ridx
  rzero : a.rzero = b.rzero
  inputs : a.inputs = b.inputs
  draws : a.draws = b.draws

end Sys2Proof.Machine
end

