-- ==== Sys2Proof/Certificates/Slice0/Obligations.lean ====
section
/-! DEFINITION. The statements for the provers, from the numbered rules of spec/. -/

open Sys2Proof Sys2Proof.Machine

/-! ### Encoding -/

/-- Decoding an encoded command gives it back, for every operand (30_encoding.md R70, R75). -/
def Obligations.DecodeOfEncodeIsIdentity : Prop :=
  ∀ i : Instr, i.wellFormed = true → decodeWord (encode i) = i ∧ decode (encode i).toNat = .ok i

/-- Every 257-bit word is the encoding of exactly one command (30_encoding.md R76). -/
def Obligations.EveryCommandWordIsOneCommand : Prop :=
  ∀ cmd : CmdWord, encode (decodeWord cmd) = cmd ∧ ∀ i : Instr, encode i = cmd → i = decodeWord cmd

/-- The match and mask pairs of 30_encoding.md R75, and the operand taken bit for bit. -/
def Obligations.OpcodeMapByMatchAndMask : Prop :=
  ∀ cmd : CmdWord,
    ((∃ x, decodeWord cmd = .bsf x) ↔
      cmd &&& 0x10000000000000000000000000000000000000000000000000000000000000000#257 = 0) ∧
    ((∃ x, decodeWord cmd = .bsr x) ↔
      cmd &&& 0x10000000000000000000000000000000000000000000000000000000000000000#257 =
        0x10000000000000000000000000000000000000000000000000000000000000000#257) ∧
    (∀ i < 256, (decodeWord cmd).operand.getLsbD i = cmd.getLsbD i)

/-- Four words written out from 30_encoding.md R70 and R75 decode to the commands 95_test_vectors.md gives them. The last
clause is the MODEL'S CHOICE (assumption log 9), not a rule: the decoder reads numbers, R77 gives a command no length but
257 bits, and a number with a bit above `CMD[256]` is refused by name. -/
def Obligations.WrittenOutWordsDecode : Prop :=
  decode 0x00000000000000100000000000000000000000000000000000000000000000000 = .ok (.bsf (1#256 <<< 200)) ∧
  decode 0x10000000000000100000000000000000000000000000000000000000000000000 = .ok (.bsr (1#256 <<< 200)) ∧
  decode 0x00000000000000000000000000000000000000000000000000000000000000050 = .ok (.bsf 0x50#256) ∧
  decode 0x100000000000000000000000000000000000000000000000000000000000000f0 = .ok (.bsr 0xf0#256) ∧
  decode 0x20000000000000000000000000000000000000000000000000000000000000000 = .error .longerThanCommand

/-- What 30_encoding.md R78 accepts and refuses. First form by form, for a line already read: a decimal number below
`2^256`; 1 to 64 hex digits, the most significant first; `2^n` for `n <= 255`; `2^n - 1` for `n <= 255` and the one
exception `2^256 - 1`; `2^n + 2^m` for `n, m <= 255` with a sum below `2^256`; every other literal of these forms is
refused. Then for text: the reader accepts exactly `BSF <X>` and `BSR <X>` with `<X>` a `LiteralText`, and gives the
command of the mnemonic with that value. The case of hex digits, the spaces left out and the leading zeros that
`LiteralText` allows are the MODEL'S CHOICE (assumption log 13). -/
def Obligations.AssemblerAcceptsExactlyTheLiteralForms : Prop :=
  (∀ op : Op,
    (∀ n, (n < 2 ^ 256 → assembleLine ⟨op, .decimal n⟩ = .ok (op.command (BitVec.ofNat 256 n))) ∧
      (2 ^ 256 ≤ n → assembleLine ⟨op, .decimal n⟩ = .error .literalOutOfRange)) ∧
    (∀ ds : List (Fin 16),
      (1 ≤ ds.length → ds.length ≤ 64 → ∃ x : Operand,
        x.toNat = Nat.ofDigits 16 (ds.map Fin.val).reverse ∧ assembleLine ⟨op, .hex ds⟩ = .ok (op.command x)) ∧
      (ds.length = 0 ∨ 64 < ds.length → assembleLine ⟨op, .hex ds⟩ = .error .literalOutOfRange)) ∧
    (∀ n, (n ≤ 255 → assembleLine ⟨op, .pow n⟩ = .ok (op.command (BitVec.ofNat 256 (2 ^ n)))) ∧
      (255 < n → assembleLine ⟨op, .pow n⟩ = .error .literalOutOfRange)) ∧
    (∀ n, (n ≤ 256 → assembleLine ⟨op, .powMinusOne n⟩ = .ok (op.command (BitVec.ofNat 256 (2 ^ n - 1)))) ∧
      (256 < n → assembleLine ⟨op, .powMinusOne n⟩ = .error .literalOutOfRange)) ∧
    (∀ n m,
      (n ≤ 255 → m ≤ 255 → ¬ (n = 255 ∧ m = 255) →
        assembleLine ⟨op, .powSum n m⟩ = .ok (op.command (BitVec.ofNat 256 (2 ^ n + 2 ^ m)))) ∧
      (255 < n ∨ 255 < m ∨ (n = 255 ∧ m = 255) →
        assembleLine ⟨op, .powSum n m⟩ = .error .literalOutOfRange))) ∧
  ∀ (cs : List Char) (i : Instr), assemble cs = .ok i ↔
    ∃ (lit : List Char) (x : Operand), LiteralText lit x.toNat ∧
      ((cs = 'B' :: 'S' :: 'F' :: ' ' :: lit ∧ i = .bsf x) ∨ (cs = 'B' :: 'S' :: 'R' :: ' ' :: lit ∧ i = .bsr x))

/-- A result is written `-> idx=<i>` with the index in decimal, or `-> ZeroValue` (30_encoding.md R78). -/
def Obligations.ResultsAreWrittenAsTheSyntaxSays : Prop :=
  (∀ i : Index, ∃ cs, DecimalText cs i.toNat ∧
    showResult (.index i) = '-' :: '>' :: ' ' :: 'i' :: 'd' :: 'x' :: '=' :: cs) ∧
  showResult .zeroValue = ['-', '>', ' ', 'Z', 'e', 'r', 'o', 'V', 'a', 'l', 'u', 'e']

/-! ### The encoder's windows, stages and accumulator -/

/-- The window widths, in order, with their sum and their halving (40_encoder.md R100), and the constants they give
(R101): thresholds `2^(w_k)`, masks whose low `w_k` bits are 1. -/
def Obligations.WindowWidthsAndConstants : Prop :=
  (List.range 8).map window = [128, 64, 32, 16, 8, 4, 2, 1] ∧ ((List.range 8).map window).sum = 255 ∧
  (∀ k < 7, window (k + 1) = window k / 2) ∧
  (∀ k ≤ 7, threshold k = 2 ^ window k ∧ (mask k).toNat = 2 ^ window k - 1 ∧
    ∀ i < 256, (mask k).getLsbD i = decide (i < window k))

/-- The zero test is true exactly when all 256 bits are 0 (40_encoder.md R102). -/
def Obligations.ZeroTestReadsEveryBit : Prop :=
  ∀ x : Operand, zeroDetect x = true ↔ ∀ i < 256, x.getLsbD i = false

/-- BSR stages 0 to 6 (41_bsr.md R122): a working value at or above the threshold is divided by it and the window added
to the accumulator; any other pair is kept. -/
def Obligations.BsrStageTestsShiftsAndAdds : Prop :=
  ∀ (k : Nat) (d : Datapath), k < 7 →
    (2 ^ window k ≤ d.w.toNat →
      (stage .bsr k d).w.toNat = d.w.toNat / 2 ^ window k ∧
      (stage .bsr k d).r = d.r + BitVec.ofNat 8 (2 ^ (7 - k))) ∧
    (d.w.toNat < 2 ^ window k → stage .bsr k d = d)

/-- BSR stage 7 adds 1 without a shift (41_bsr.md R123). -/
def Obligations.BsrLastStageAddsWithoutShift : Prop :=
  ∀ d : Datapath,
    (2 ≤ d.w.toNat → (stage .bsr 7 d).w = d.w ∧ (stage .bsr 7 d).r = d.r + 1) ∧
    (d.w.toNat < 2 → stage .bsr 7 d = d)

/-- BSF stages 0 to 7 (42_bsf.md R142): only the low `w_k` bits are tested; a non-zero low half lowers the accumulator by
the window and keeps `W`, a zero low half shifts `W` right by the window and keeps the accumulator. -/
def Obligations.BsfStageTestsTheLowHalf : Prop :=
  ∀ (k : Nat) (d : Datapath), k ≤ 7 →
    (d.w.toNat % 2 ^ window k ≠ 0 →
      (stage .bsf k d).w = d.w ∧ (stage .bsf k d).r = d.r - BitVec.ofNat 8 (2 ^ (7 - k))) ∧
    (d.w.toNat % 2 ^ window k = 0 →
      (stage .bsf k d).w.toNat = d.w.toNat / 2 ^ window k ∧ (stage .bsf k d).r = d.r)

/-- The accumulator never wraps, for every operand, zero among them: BSR adds at most the window, BSF subtracts at most
the window, as exact integers (40_encoder.md R107). -/
def Obligations.AccumulatorNeverWraps : Prop :=
  ∀ (x : Operand) (k : Nat), k ≤ 7 →
    (initialDatapath .bsr x).r.toNat = 0 ∧ (initialDatapath .bsf x).r.toNat = 255 ∧
    ((runStages .bsr (k + 1) 0 (initialDatapath .bsr x)).r.toNat =
        (runStages .bsr k 0 (initialDatapath .bsr x)).r.toNat ∨
      (runStages .bsr (k + 1) 0 (initialDatapath .bsr x)).r.toNat =
        (runStages .bsr k 0 (initialDatapath .bsr x)).r.toNat + window k) ∧
    ((runStages .bsf k 0 (initialDatapath .bsf x)).r.toNat =
        (runStages .bsf (k + 1) 0 (initialDatapath .bsf x)).r.toNat ∨
      (runStages .bsf k 0 (initialDatapath .bsf x)).r.toNat =
        (runStages .bsf (k + 1) 0 (initialDatapath .bsf x)).r.toNat + window k)

/-- Every stage keeps `W` or shifts it right by its window, and the shifts of a whole BSF add up to at most 255
(40_encoder.md R106). -/
def Obligations.ShiftsAreByTheWindows : Prop :=
  (∀ (op : Op) (k : Nat) (d : Datapath), k ≤ 7 →
    ((stage op k d).w = d.w ∨ (stage op k d).w.toNat = d.w.toNat / 2 ^ window k) ∧ 1 ≤ window k ∧ window k ≤ 128) ∧
  ∀ x : Operand, bsfShift x 8 ≤ 255

/-- The stages give the same pair however they are grouped into cycles (40_encoder.md R105). -/
def Obligations.StageGroupingDoesNotMatter : Prop :=
  ∀ (op : Op) (groups : List Nat) (d : Datapath), groups.sum = 8 →
    groups.foldl (fun (kd : Nat × Datapath) n => (kd.1 + n, runStages op n kd.1 kd.2)) (0, d) =
      (8, runStages op 8 0 d)

/-- The BSR invariant (41_bsr.md R124), before stage `k`. -/
def Obligations.BsrWindowInvariant : Prop :=
  ∀ (x : Operand) (k : Nat) (d : Datapath), x ≠ 0 → k ≤ 7 → d = runStages .bsr k 0 (initialDatapath .bsr x) →
    d.w = x >>> d.r.toNat ∧ 1 ≤ d.w.toNat ∧ d.w.toNat < 2 ^ (2 * window k) ∧
    (∀ m, IsMsb d.w m → IsMsb x (d.r.toNat + m)) ∧
    (k = 7 → d.w.toNat = 1 ∨ d.w.toNat = 2 ∨ d.w.toNat = 3)

/-- The BSF invariant (42_bsf.md R143), before stage `k`, and what it gives after stage 7. -/
def Obligations.BsfWindowInvariant : Prop :=
  ∀ x : Operand, x ≠ 0 →
    (∀ (k : Nat) (d : Datapath), k ≤ 7 → d = runStages .bsf k 0 (initialDatapath .bsf x) →
      d.w = x >>> bsfShift x k ∧ (∀ j < bsfShift x k, x.getLsbD j = false) ∧
      (∀ m, IsLsb x m → bsfShift x k ≤ m ∧ m ≤ bsfShift x k + 2 * window k - 1) ∧
      d.r.toNat = bsfShift x k + 2 * window k - 1) ∧
    (runStages .bsf 8 0 (initialDatapath .bsf x)).r.toNat = bsfShift x 8 ∧ IsLsb x (bsfShift x 8)

/-- On a zero operand every BSF stage takes the shift branch and the raw accumulator ends at 255, the value `2^255` gives
too; the zero detector tells the two apart (42_bsf.md R146). -/
def Obligations.RawAccumulatorOnZeroOperand : Prop :=
  (∀ k ≤ 8, runStages .bsf k 0 (initialDatapath .bsf 0) = ⟨0, 255⟩) ∧
  (∀ k ≤ 7, bsfShift 0 (k + 1) = bsfShift 0 k + window k) ∧
  (runStages .bsf 8 0 (initialDatapath .bsf (1#256 <<< 255))).r = 255 ∧
  scan .bsf 0 = .zeroValue ∧ scan .bsf (1#256 <<< 255) = .index 255

/-- The table of 41_bsr.md R126. -/
def Obligations.BsrCornerCases : Prop :=
  scan .bsr 0 = .zeroValue ∧ zeroDetect 0 = true ∧ (∀ r, resultIndex (zeroDetect 0) r = 0x00) ∧
  scan .bsr 1 = .index 0 ∧ scan .bsr 2 = .index 1 ∧ scan .bsr 3 = .index 1 ∧
  scan .bsr (1#256 <<< 255) = .index 255 ∧ scan .bsr ((1#256 <<< 255) - 1) = .index 254 ∧
  scan .bsr (BitVec.allOnes 256) = .index 255 ∧
  (∀ i ≤ 255, scan .bsr (1#256 <<< i) = .index (BitVec.ofNat 8 i)) ∧
  scan .bsr (1#256 <<< 128) = .index 128 ∧
  stage .bsr 0 (initialDatapath .bsr (1#256 <<< 128)) = ⟨1, 128⟩ ∧
  scan .bsr ((1#256 <<< 128) - 1) = .index 127 ∧
  stage .bsr 0 (initialDatapath .bsr ((1#256 <<< 128) - 1)) = initialDatapath .bsr ((1#256 <<< 128) - 1)

/-- The table of 42_bsf.md R145. -/
def Obligations.BsfCornerCases : Prop :=
  scan .bsf 0 = .zeroValue ∧ zeroDetect 0 = true ∧ (∀ r, resultIndex (zeroDetect 0) r = 0x00) ∧
  scan .bsf 1 = .index 0 ∧ scan .bsf 2 = .index 1 ∧ scan .bsf 3 = .index 0 ∧
  scan .bsf (1#256 <<< 255) = .index 255 ∧ scan .bsf ((1#256 <<< 255) - 1) = .index 0 ∧
  scan .bsf (BitVec.allOnes 256) = .index 0 ∧
  (∀ i ≤ 255, scan .bsf (1#256 <<< i) = .index (BitVec.ofNat 8 i)) ∧
  scan .bsf (1#256 <<< 128) = .index 128 ∧
  stage .bsf 0 (initialDatapath .bsf (1#256 <<< 128)) = ⟨1, 255⟩ ∧
  (∀ k ≤ 7, 1 ≤ k → runStages .bsf (k + 1) 0 (initialDatapath .bsf (1#256 <<< 128)) =
    ⟨1, (runStages .bsf k 0 (initialDatapath .bsf (1#256 <<< 128))).r - BitVec.ofNat 8 (window k)⟩) ∧
  scan .bsf ((1#256 <<< 128) + (1#256 <<< 127)) = .index 127 ∧
  ((1#256 <<< 128) + (1#256 <<< 127)) &&& mask 0 = 1#256 <<< 127

/-- The two operations on one operand (42_bsf.md R147): `lsb(X) <= msb(X)`, equal exactly at the powers of two, and both
`ZeroValue` at 0. -/
def Obligations.LsbIsAtMostMsb : Prop :=
  (∀ x : Operand, x ≠ 0 → ∃ i j : Index, scan .bsf x = .index i ∧ scan .bsr x = .index j ∧ i.toNat ≤ j.toNat ∧
    (i = j ↔ ∃ n, x.toNat = 2 ^ n)) ∧
  scan .bsf 0 = .zeroValue ∧ scan .bsr 0 = .zeroValue

/-! ### The clock-edge step -/

/-- A step at which a command is presented, `rst = 0` and `start = 1` with its word on `{op, X}` (10_state.md R40;
30_encoding.md R70, R75), runs that command's `exec`. That a step is an edge and `exec` a command's meaning at the edge
that presents it is the MODEL'S CHOICE of assumption log 1; that the edge uses up the head of the state's list of port
values, or one draw where the list is empty, is that of log 2. -/
def Obligations.StepRunsThePresentedCommand : Prop :=
  ∀ (s : State) (i : Instr), s.sampled.rst = false → s.sampled.start = true →
    decodeWord s.sampled.commandWord = i →
    step s = exec i s.afterSample ∧
    s.afterSample =
      { s with inputs := s.inputs.tail, draws := if s.inputs = [] then s.draws + 1 else s.draws }

/-- A word put on the ports is run by the very next step. The placing is the MODEL'S OWN (assumption log 9): how a table
word is numbered and cut at `nbits`, and that `withFetchWord` stands for the host that drives `rst = 0`, `start = 1` and
the word on `{op, X}` (30_encoding.md R70, R75; 70_reset_and_hazards.md R183). -/
def Obligations.PlacedWordRunsAtTheNextStep : Prop :=
  ∀ (s : State) (nbits w : Nat) (i : Instr), decodeTableWord nbits w = some i →
    step (s.withFetchWord nbits w) = exec i { s with inputs := s.inputs.tail }

/-- A reset edge clears the control and result registers, whatever the block was doing and whatever `start`, `op` and `X`
carry, before the first reset too (70_reset_and_hazards.md R180, R181). What it leaves in `W`, `R`, `K`, `OPQ` and `ZQ` is
unspecified, and nothing is said of them. The fields `booted`, `spc` and `inputs` are the model's (assumption logs 2, 3,
6). -/
def Obligations.ResetEdgeClearsTheBlock : Prop :=
  ∀ s : State, s.sampled.rst = true →
    ∃ t, step s = .next t ∧ t.busy = false ∧ t.valid = false ∧ t.ridx = 0x00 ∧ t.rzero = false ∧
      t.outputs = { ready := true, valid := false, idx := 0x00, zero := false } ∧
      t.booted = true ∧ t.spc = s.spc ∧ t.inputs = s.inputs.tail

/-- The state after reset has the values 10_state.md R28 gives, and presents them. The zeros of `W`, `R`, `K`, `OPQ` and
`ZQ` are the model's choice (assumption log 4) and are not stated. -/
def Obligations.ResetStateHasTheGivenValues : Prop :=
  State.reset.busy = false ∧ State.reset.valid = false ∧ State.reset.ridx = 0x00 ∧ State.reset.rzero = false ∧
  State.reset.outputs = { ready := true, valid := false, idx := 0x00, zero := false }

/-- Before the first reset edge the block runs on with nothing known of its registers, and one reset edge ends this
(70_reset_and_hazards.md R182, R184). The free values and the `booted` field are the model's (assumption log 6). -/
def Obligations.PowerUpEndsAtTheFirstReset : Prop :=
  ∀ s : State, s.booted = false →
    (∀ i : Instr, ∃ t, exec i s = .next t ∧ t.booted = false ∧ t.spc = s.spc ∧ t.inputs = s.inputs) ∧
    (s.sampled.rst = false → ∃ t, step s = .next t ∧ t.booted = false) ∧
    (s.sampled.rst = true → ∃ t, step s = .next t ∧ t.booted = true ∧
      t.outputs = { ready := true, valid := false, idx := 0x00, zero := false })

/-- Accept (10_state.md R41): at an edge with `rst = 0`, `BUSY = 0` and `start = 1`, exactly these registers are written;
and at the next edge the host's `start`, `op` and `X` no longer count. The sampled ports are used up by assumption log
2. -/
def Obligations.AcceptLatchesTheCommand : Prop :=
  ∀ s : State, s.booted = true → s.busy = false → s.sampled.rst = false → s.sampled.start = true →
    ∃ t, step s = .next t ∧
      t = { s.afterSample with
            opq := if s.sampled.op then .bsr else .bsf, zq := zeroDetect s.sampled.x, w := s.sampled.x,
            r := if s.sampled.op then 0x00 else 0xFF, k := 0, busy := true, valid := false } ∧
      ∀ (p q : Inputs) (rest : List Inputs), p.rst = q.rst →
        step { t with inputs := p :: rest } = step { t with inputs := q :: rest }

/-- Advance (10_state.md R42): a busy edge runs `SPC` stages of the latched operation, whatever `start`, `op` and `X`
carry, and writes nothing else before the last stage. -/
def Obligations.AdvanceRunsSpcStages : Prop :=
  ∀ s : State, s.booted = true → s.busy = true → LegalSchedule s → s.sampled.rst = false →
    ∃ t, step s = .next t ∧
      t.datapath = (List.range s.spc.stages).foldl (fun d j => stage s.opq (s.k.toNat + j) d) s.datapath ∧
      t.k.toNat = s.k.toNat + s.spc.stages ∧ t.opq = s.opq ∧ t.zq = s.zq ∧ t.spc = s.spc ∧
      (t.k.toNat < 8 → t.busy = true ∧ t.valid = s.valid ∧ t.ridx = s.ridx ∧ t.rzero = s.rzero) ∧
      (t.k.toNat = 8 → t.busy = false ∧ t.valid = true ∧ t.rzero = s.zq ∧ t.ridx = resultIndex s.zq t.r)

/-- Result selection at the edge that runs stage 7 (40_encoder.md R108): the zero flag from `ZQ`, the index forced to
`0x00` on a zero operand and the accumulator on any other. -/
def Obligations.CompletionSelectsTheResult : Prop :=
  ∀ s : State, s.booted = true → s.busy = true → s.k.toNat + s.spc.stages = 8 → s.sampled.rst = false →
    ∃ t, step s = .next t ∧ t.valid = true ∧ t.busy = false ∧ t.rzero = s.zq ∧
      (s.zq = true → t.ridx = 0x00) ∧ (s.zq = false → t.ridx = t.r)

/-- Hold (10_state.md R44): with neither a reset nor a start, an idle block keeps every register, for any number of
edges. What becomes of the model's own fields `inputs` and `draws`, which are no registers, is assumption log 2. -/
def Obligations.HoldKeepsEveryRegister : Prop :=
  ∀ (n : Nat) (s : State), s.booted = true → s.busy = false → QuietFor n s →
    ∃ t, runEdges n s = .next t ∧
      t = { s with inputs := s.inputs.drop n, draws := s.draws + (n - s.inputs.length) }

/-- A command presented while the block is busy is dropped (10_state.md R45): the edge is the advance it would be without
the command, and nothing is queued. -/
def Obligations.CommandWhileBusyIsDropped : Prop :=
  ∀ (i : Instr) (s : State), s.booted = true → s.busy = true →
    exec i s = advance s ∧ exec i s = edgeWithoutCommand s

/-- `op` and `X` matter only at an accept edge (10_state.md R46). -/
def Obligations.OperandPortsMatterOnlyAtAccept : Prop :=
  ∀ (s : State) (p q : Inputs) (rest : List Inputs), p.rst = q.rst → p.start = q.start →
    ¬ (p.rst = false ∧ s.busy = false ∧ p.start = true) →
    step { s with inputs := p :: rest } = step { s with inputs := q :: rest }

/-- What a step never touches, all in fields that are the MODEL'S CHOICE: the parameter, a constant field by 00_scope.md R5
and assumption log 3; the host's port values after the one sampled at this edge (10_state.md R29, R47; log 2); and the
fact that a reset edge has occurred (70_reset_and_hazards.md R182, R184; log 6). -/
def Obligations.StepFrame : Prop :=
  ∀ s t : State, step s = .next t →
    t.spc = s.spc ∧ t.inputs = s.inputs.tail ∧ (s.booted = true → t.booted = true)

/-- What presenting BSF or BSR leaves unchanged: the ports and the parameter always; the result registers when it is
accepted; the latched command when it is dropped, and with it the control and result registers before the last stage
(10_state.md R25, R41, R42, R45). The fields `inputs`, `draws`, `spc` and `booted` are the model's (assumption logs 2, 3,
6). -/
def Obligations.PresentedCommandFrame : Prop :=
  ∀ (i : Instr) (s t : State), s.booted = true → exec i s = .next t →
    t.spc = s.spc ∧ t.inputs = s.inputs ∧ t.draws = s.draws ∧ t.booted = true ∧
    (s.busy = false → t.ridx = s.ridx ∧ t.rzero = s.rzero) ∧
    (s.busy = true → t.opq = s.opq ∧ t.zq = s.zq ∧
      (s.k.toNat + s.spc.stages < 8 →
        t.busy = s.busy ∧ t.valid = s.valid ∧ t.ridx = s.ridx ∧ t.rzero = s.rzero))

/-- The result registers change only at a completion and at a reset (10_state.md R25, R27; 70_reset_and_hazards.md
R185). -/
def Obligations.ResultChangesOnlyAtCompletionOrReset : Prop :=
  ∀ s t : State, s.booted = true → step s = .next t → (t.ridx ≠ s.ridx ∨ t.rzero ≠ s.rzero) →
    s.sampled.rst = true ∨ (s.busy = true ∧ s.k.toNat + s.spc.stages = 8)

/-! ### Whole commands -/

/-- BSF (42_bsf.md R140, R144): presented to an idle block it is accepted with these writes, and `L` edges later, unless
the block is reset, `idx` is the index of the least-significant set bit, `zero = 0`, or the outcome is `ZeroValue` for
`X = 0`. -/
def Obligations.BsfCommandPresentsTheLsb : Prop :=
  ∀ (x : Operand) (s : State), s.booted = true → s.busy = false →
    ∃ t, exec (.bsf x) s = .next t ∧
      t = { s with opq := .bsf, zq := zeroDetect x, w := x, r := 0xFF, k := 0, busy := true, valid := false } ∧
      (NoResetFor s.spc.latency t →
        ∃ u, runEdges s.spc.latency t = .next u ∧ u.valid = true ∧ u.busy = false ∧
          u.opq = .bsf ∧ u.spc = s.spc ∧ u.booted = true ∧
          (x = 0 → u.rzero = true ∧ u.ridx = 0x00 ∧ u.result = some .zeroValue) ∧
          (x ≠ 0 → u.rzero = false ∧ u.ridx = u.r ∧ IsLsb x u.ridx.toNat ∧
            (∀ m, IsLsb x m → m = u.ridx.toNat) ∧ u.result = some (.index u.ridx)))

/-- BSR (41_bsr.md R120, R125): the same with the index of the most-significant set bit; on a zero operand the raw
accumulator is 0. -/
def Obligations.BsrCommandPresentsTheMsb : Prop :=
  ∀ (x : Operand) (s : State), s.booted = true → s.busy = false →
    ∃ t, exec (.bsr x) s = .next t ∧
      t = { s with opq := .bsr, zq := zeroDetect x, w := x, r := 0x00, k := 0, busy := true, valid := false } ∧
      (NoResetFor s.spc.latency t →
        ∃ u, runEdges s.spc.latency t = .next u ∧ u.valid = true ∧ u.busy = false ∧
          u.opq = .bsr ∧ u.spc = s.spc ∧ u.booted = true ∧
          (x = 0 → u.rzero = true ∧ u.ridx = 0x00 ∧ u.r = 0 ∧ u.result = some .zeroValue) ∧
          (x ≠ 0 → u.rzero = false ∧ u.ridx = u.r ∧ IsMsb x u.ridx.toNat ∧
            (∀ m, IsMsb x m → m = u.ridx.toNat) ∧ u.result = some (.index u.ridx)))

/-- Transaction-level equivalence (10_state.md R48): a command accepted at edge `t` presents its result after edge
`t + L`, is not ready and not valid before, and holds its result. -/
def Obligations.AcceptedCommandCompletesAfterLEdges : Prop :=
  ∀ (s : State) (i : Instr), s.booted = true → s.busy = false → s.sampled.rst = false → s.sampled.start = true →
    decodeWord s.sampled.commandWord = i → NoResetFor (s.spc.latency + 1) s →
    (∃ u, runEdges (s.spc.latency + 1) s = .next u ∧ u.valid = true ∧ u.ready = true ∧
      IsResultOf i.op i.operand u.rzero u.ridx ∧
      (∀ n v, QuietFor n u → runEdges n u = .next v → v.outputs = u.outputs) ∧
      (∀ n v, NoResetFor n u → runEdges n u = .next v →
        (∀ m < n, ∀ a, runEdges m u = .next a → ¬ (a.busy = true ∧ a.k.toNat + a.spc.stages = 8)) →
        v.rzero = u.rzero ∧ v.ridx = u.ridx)) ∧
    (∀ j < s.spc.latency, ∃ v, runEdges (j + 1) s = .next v ∧ v.ready = false ∧ v.valid = false)

/-- The clocked block computes the cycle-free function `scan` of 10_state.md R48, for every value of `SPC`. -/
def Obligations.ClockedBlockRefinesScan : Prop :=
  ∀ (i : Instr) (s : State), s.booted = true → s.busy = false →
    ∃ t, exec i s = .next t ∧
      (NoResetFor s.spc.latency t →
        ∃ u, runEdges s.spc.latency t = .next u ∧ u.result = some (scan i.op i.operand))

/-- Latency and throughput (70_reset_and_hazards.md R190): `L` is 1, 2, 4 or 8; no command is accepted at edges
`t+1 .. t+L` after an accept at `t`, and one presented at `t+L+1` is. -/
def Obligations.LatencyAndEarliestNextAccept : Prop :=
  (Spc.eight.latency = 1 ∧ Spc.four.latency = 2 ∧ Spc.two.latency = 4 ∧ Spc.one.latency = 8) ∧
  ∀ s : State, s.booted = true → s.busy = false → s.sampled.rst = false → s.sampled.start = true →
    NoResetFor (s.spc.latency + 1) s →
    (∀ j < s.spc.latency, ∃ v, runEdges (j + 1) s = .next v ∧ v.busy = true ∧
      ∀ i : Instr, exec i v = edgeWithoutCommand v) ∧
    (∃ u, runEdges (s.spc.latency + 1) s = .next u ∧ u.busy = false ∧ u.valid = true ∧
      ∀ i : Instr, exec i u = .next (accept i.op i.operand u))

/-- A result depends on the command alone (20_memory.md R60): neither on what the block did before, nor on `SPC`, nor on
the host's ports while the command is in flight. -/
def Obligations.ResultDependsOnTheCommandAlone : Prop :=
  ∀ (i : Instr) (a b : State), a.booted = true → b.booted = true → a.busy = false → b.busy = false →
    ∃ a' b', exec i a = .next a' ∧ exec i b = .next b' ∧
      (NoResetFor a.spc.latency a' → NoResetFor b.spc.latency b' →
        ∃ u v, runEdges a.spc.latency a' = .next u ∧ runEdges b.spc.latency b' = .next v ∧
          u.outputs = v.outputs)

/-- A command in flight stays the one in flight until it completes with its own result (20_memory.md R57). -/
def Obligations.CompletionBelongsToTheCommandInFlight : Prop :=
  ∀ (op : Op) (x : Operand) (s : State), InFlight op x s → s.sampled.rst = false →
    ∃ t, step s = .next t ∧
      (s.k.toNat + s.spc.stages < 8 → InFlight op x t ∧ t.k.toNat = s.k.toNat + s.spc.stages ∧
        t.ridx = s.ridx ∧ t.rzero = s.rzero) ∧
      (s.k.toNat + s.spc.stages = 8 → t.busy = false ∧ t.valid = true ∧ IsResultOf op x t.rzero t.ridx)

/-- After a `ZeroValue` completion the block is in the control state of any completion, and takes the next command with no
reset (60_exceptions.md R170). -/
def Obligations.ZeroValueNeedsNoRecovery : Prop :=
  ∀ (op : Op) (s : State), InFlight op 0 s → s.k.toNat + s.spc.stages = 8 → s.sampled.rst = false →
    ∃ t, step s = .next t ∧ t.result = some .zeroValue ∧ t.response = some 0x100#9 ∧
      t.busy = false ∧ t.valid = true ∧
      ∀ i : Instr, exec i t = .next (accept i.op i.operand t)

/-- A reset abandons the command in flight (70_reset_and_hazards.md R188): after it `valid` is 1 only once a command
accepted later, at edge `m`, has come to its completing edge `m'`, with the block busy and no reset in between. -/
def Obligations.ResetAbandonsTheCommandInFlight : Prop :=
  ∀ s : State, s.busy = true → s.sampled.rst = true →
    ∃ t, step s = .next t ∧ t.busy = false ∧ t.valid = false ∧
      ∀ (n : Nat) (v : State), runEdges n t = .next v → v.valid = true →
        ∃ (m m' : Nat) (a b : State), m < m' ∧ m' < n ∧
          runEdges m t = .next a ∧ a.busy = false ∧ a.sampled.start = true ∧
          runEdges m' t = .next b ∧ b.k.toNat + b.spc.stages = 8 ∧
          (∀ j c, m ≤ j → j ≤ m' → runEdges j t = .next c →
            c.sampled.rst = false ∧ (m < j → c.busy = true))

/-- The hidden registers of an idle block reach no output (10_state.md R30): an accept overwrites all five, and two idle
states that differ only in them present the same outputs for ever. -/
def Obligations.HiddenRegistersReachNoOutput : Prop :=
  (∀ (i : Instr) (a b : State), IdleAlike a b → exec i a = exec i b) ∧
  ∀ (n : Nat) (a b u : State), IdleAlike a b → runEdges n a = .next u →
    ∃ v, runEdges n b = .next v ∧ u.outputs = v.outputs

/-- Where the model stops (40_encoder.md R110, assumption log 7): a booted, busy block whose schedule would leave stages 0
to 7 faults by name, whatever command is presented. `Obligations.LegalRunsNeverStop` says that no legal run comes here. -/
def Obligations.UndefinedStageStopsByName : Prop :=
  ∀ (i : Instr) (s : State), s.booted = true → s.busy = true → 8 < s.k.toNat + s.spc.stages →
    exec i s = .fault .stageUndefined ∧ edgeWithoutCommand s = .fault .stageUndefined

/-! ### Invariants and safety -/

/-- The state after reset is legal, and so is every power-up state (assumption log 6), of which nothing is asked before the
first reset (70_reset_and_hazards.md R182). -/
def Obligations.ResetAndPowerUpAreLegal : Prop :=
  Legal State.reset ∧ ∀ (c : Spc) (inputs : List Inputs) (n : Nat), Legal (State.powerUp c inputs n)

/-- Every step keeps a legal state legal: `K` a multiple of `SPC` in `[0, 8 - SPC]` while busy, never busy and valid at
once, and index `0x00` with every failure (10_state.md R23, R24, R25). -/
def Obligations.EveryStepKeepsLegal : Prop :=
  ∀ s t : State, Legal s → step s = .next t → Legal t

/-- No run from a legal state stops: no fault, no refusal, whatever the ports carry (60_exceptions.md R163,
40_encoder.md R110). -/
def Obligations.LegalRunsNeverStop : Prop :=
  ∀ (n : Nat) (s : State), Legal s → ∃ t, runEdges n s = .next t

/-- Every step keeps this: a busy block is in the middle of some command of its latched operation, with the datapath that
command has at stage `K` (10_state.md R41, R42). -/
def Obligations.EveryBusyStateIsMidCommand : Prop :=
  ∀ s t : State, (s.booted = true → s.busy = true → ∃ x, InFlight s.opq x s) → step s = .next t →
    (t.booted = true → t.busy = true → ∃ x, InFlight t.opq x t)

/-- What a legal block presents while `valid = 1` (30_encoding.md R73, 60_exceptions.md R160): the response word is
`zero` above `idx`, exactly `0x100` on a failure, and stands for exactly one of the two outcomes; while `valid = 0` there
is none. -/
def Obligations.ResponseWordPresentsOneOutcome : Prop :=
  ∀ s : State, Legal s → s.booted = true →
    (s.valid = true → ∃ r : RspWord, s.response = some r ∧
      r.getLsbD 8 = s.outputs.zero ∧ r.toNat % 256 = s.outputs.idx.toNat ∧
      (s.rzero = true → r = 0x100#9 ∧ s.result = some .zeroValue) ∧
      (s.rzero = false → r.toNat = s.ridx.toNat ∧ s.result = some (.index s.ridx))) ∧
    (s.valid = false → s.response = none ∧ s.result = none)

/-- Instances share nothing (60_exceptions.md R169): in any interleaving of their clock edges, an instance ends as it
would if only its own edges were taken and the other instances were any others. That the instances are a list of states,
that a run names the one that takes the next edge, and that a stopped one stays, is the MODEL'S CHOICE (assumption log
15). -/
def Obligations.InstancesDoNotInterfere : Prop :=
  ∀ (order : List Nat) (bank other : List State) (n : Nat), bank[n]? = other[n]? →
    (runBank order bank)[n]? = (runBank (order.filter (fun m => m == n)) other)[n]?
end

