-- ==== Sys2Proof/Laws/State.lean ====
section
/-! SUPPORT. One lemma per field of State for each operation that updates it, so that no proof unfolds a record update. -/

namespace Sys2Proof.Machine

section AcceptFields
variable (op : Op) (x : Operand) (s : State)

@[simp] theorem accept_spc : (accept op x s).spc = s.spc := rfl
@[simp] theorem accept_w : (accept op x s).w = x := rfl
@[simp] theorem accept_r : (accept op x s).r = initialAccumulator op := rfl
@[simp] theorem accept_k : (accept op x s).k = 0 := rfl
@[simp] theorem accept_opq : (accept op x s).opq = op := rfl
@[simp] theorem accept_zq : (accept op x s).zq = zeroDetect x := rfl
@[simp] theorem accept_busy : (accept op x s).busy = true := rfl
@[simp] theorem accept_valid : (accept op x s).valid = false := rfl
@[simp] theorem accept_ridx : (accept op x s).ridx = s.ridx := rfl
@[simp] theorem accept_rzero : (accept op x s).rzero = s.rzero := rfl
@[simp] theorem accept_booted : (accept op x s).booted = s.booted := rfl
@[simp] theorem accept_inputs : (accept op x s).inputs = s.inputs := rfl
@[simp] theorem accept_draws : (accept op x s).draws = s.draws := rfl

end AcceptFields

section StoreStagesFields
variable (d : Datapath) (s : State)

@[simp] theorem storeStages_spc : (storeStages d s).spc = s.spc := rfl
@[simp] theorem storeStages_w : (storeStages d s).w = d.w := rfl
@[simp] theorem storeStages_r : (storeStages d s).r = d.r := rfl
@[simp] theorem storeStages_k : (storeStages d s).k = s.k + BitVec.ofNat 4 s.spc.stages := rfl
@[simp] theorem storeStages_opq : (storeStages d s).opq = s.opq := rfl
@[simp] theorem storeStages_zq : (storeStages d s).zq = s.zq := rfl
@[simp] theorem storeStages_busy : (storeStages d s).busy = s.busy := rfl
@[simp] theorem storeStages_valid : (storeStages d s).valid = s.valid := rfl
@[simp] theorem storeStages_ridx : (storeStages d s).ridx = s.ridx := rfl
@[simp] theorem storeStages_rzero : (storeStages d s).rzero = s.rzero := rfl
@[simp] theorem storeStages_booted : (storeStages d s).booted = s.booted := rfl
@[simp] theorem storeStages_inputs : (storeStages d s).inputs = s.inputs := rfl
@[simp] theorem storeStages_draws : (storeStages d s).draws = s.draws := rfl

end StoreStagesFields

section CompleteFields
variable (r : Index) (s : State)

@[simp] theorem complete_spc : (complete r s).spc = s.spc := rfl
@[simp] theorem complete_w : (complete r s).w = s.w := rfl
@[simp] theorem complete_r : (complete r s).r = s.r := rfl
@[simp] theorem complete_k : (complete r s).k = s.k := rfl
@[simp] theorem complete_opq : (complete r s).opq = s.opq := rfl
@[simp] theorem complete_zq : (complete r s).zq = s.zq := rfl
@[simp] theorem complete_busy : (complete r s).busy = false := rfl
@[simp] theorem complete_valid : (complete r s).valid = true := rfl
@[simp] theorem complete_ridx : (complete r s).ridx = resultIndex s.zq r := rfl
@[simp] theorem complete_rzero : (complete r s).rzero = s.zq := rfl
@[simp] theorem complete_booted : (complete r s).booted = s.booted := rfl
@[simp] theorem complete_inputs : (complete r s).inputs = s.inputs := rfl
@[simp] theorem complete_draws : (complete r s).draws = s.draws := rfl

end CompleteFields

section ResetEdgeFields
variable (s : State)

@[simp] theorem resetEdge_spc : (resetEdge s).spc = s.spc := rfl
@[simp] theorem resetEdge_w : (resetEdge s).w = Config.freeW s.draws := rfl
@[simp] theorem resetEdge_r : (resetEdge s).r = Config.freeR s.draws := rfl
@[simp] theorem resetEdge_k : (resetEdge s).k = Config.freeK s.draws := rfl
@[simp] theorem resetEdge_opq : (resetEdge s).opq = Op.ofBit (Config.freeOpq s.draws) := rfl
@[simp] theorem resetEdge_zq : (resetEdge s).zq = Config.freeZq s.draws := rfl
@[simp] theorem resetEdge_busy : (resetEdge s).busy = false := rfl
@[simp] theorem resetEdge_valid : (resetEdge s).valid = false := rfl
@[simp] theorem resetEdge_ridx : (resetEdge s).ridx = 0x00 := rfl
@[simp] theorem resetEdge_rzero : (resetEdge s).rzero = false := rfl
@[simp] theorem resetEdge_booted : (resetEdge s).booted = true := rfl
@[simp] theorem resetEdge_inputs : (resetEdge s).inputs = s.inputs := rfl
@[simp] theorem resetEdge_draws : (resetEdge s).draws = s.draws + 1 := rfl

end ResetEdgeFields

section UnspecifiedEdgeFields
variable (s : State)

@[simp] theorem unspecifiedEdge_spc : (unspecifiedEdge s).spc = s.spc := rfl
@[simp] theorem unspecifiedEdge_w : (unspecifiedEdge s).w = Config.freeW s.draws := rfl
@[simp] theorem unspecifiedEdge_r : (unspecifiedEdge s).r = Config.freeR s.draws := rfl
@[simp] theorem unspecifiedEdge_k : (unspecifiedEdge s).k = Config.freeK s.draws := rfl
@[simp] theorem unspecifiedEdge_opq : (unspecifiedEdge s).opq = Op.ofBit (Config.freeOpq s.draws) := rfl
@[simp] theorem unspecifiedEdge_zq : (unspecifiedEdge s).zq = Config.freeZq s.draws := rfl
@[simp] theorem unspecifiedEdge_busy : (unspecifiedEdge s).busy = Config.freeBusy s.draws := rfl
@[simp] theorem unspecifiedEdge_valid : (unspecifiedEdge s).valid = Config.freeValid s.draws := rfl
@[simp] theorem unspecifiedEdge_ridx : (unspecifiedEdge s).ridx = Config.freeRidx s.draws := rfl
@[simp] theorem unspecifiedEdge_rzero : (unspecifiedEdge s).rzero = Config.freeRzero s.draws := rfl
@[simp] theorem unspecifiedEdge_booted : (unspecifiedEdge s).booted = s.booted := rfl
@[simp] theorem unspecifiedEdge_inputs : (unspecifiedEdge s).inputs = s.inputs := rfl
@[simp] theorem unspecifiedEdge_draws : (unspecifiedEdge s).draws = s.draws + 1 := rfl

end UnspecifiedEdgeFields

section AfterSampleFields
variable (s : State)

@[simp] theorem afterSample_spc : s.afterSample.spc = s.spc := by
  unfold State.afterSample; split <;> rfl
@[simp] theorem afterSample_w : s.afterSample.w = s.w := by
  unfold State.afterSample; split <;> rfl
@[simp] theorem afterSample_r : s.afterSample.r = s.r := by
  unfold State.afterSample; split <;> rfl
@[simp] theorem afterSample_k : s.afterSample.k = s.k := by
  unfold State.afterSample; split <;> rfl
@[simp] theorem afterSample_opq : s.afterSample.opq = s.opq := by
  unfold State.afterSample; split <;> rfl
@[simp] theorem afterSample_zq : s.afterSample.zq = s.zq := by
  unfold State.afterSample; split <;> rfl
@[simp] theorem afterSample_busy : s.afterSample.busy = s.busy := by
  unfold State.afterSample; split <;> rfl
@[simp] theorem afterSample_valid : s.afterSample.valid = s.valid := by
  unfold State.afterSample; split <;> rfl
@[simp] theorem afterSample_ridx : s.afterSample.ridx = s.ridx := by
  unfold State.afterSample; split <;> rfl
@[simp] theorem afterSample_rzero : s.afterSample.rzero = s.rzero := by
  unfold State.afterSample; split <;> rfl
@[simp] theorem afterSample_booted : s.afterSample.booted = s.booted := by
  unfold State.afterSample; split <;> rfl
@[simp] theorem afterSample_inputs : s.afterSample.inputs = s.inputs.tail := by
  unfold State.afterSample; split <;> simp_all
@[simp] theorem afterSample_draws :
    s.afterSample.draws = if s.inputs = [] then s.draws + 1 else s.draws := by
  unfold State.afterSample; split <;> simp_all

end AfterSampleFields

/-- Two states with equal fields are equal. -/
theorem State.eq_of_fields {a b : State} (hspc : a.spc = b.spc) (hw : a.w = b.w) (hr : a.r = b.r) (hk : a.k = b.k)
    (hopq : a.opq = b.opq) (hzq : a.zq = b.zq) (hbusy : a.busy = b.busy) (hvalid : a.valid = b.valid)
    (hridx : a.ridx = b.ridx) (hrzero : a.rzero = b.rzero) (hbooted : a.booted = b.booted)
    (hinputs : a.inputs = b.inputs) (hdraws : a.draws = b.draws) : a = b := by
  cases a; cases b; simp_all

end Sys2Proof.Machine
end

