-- ==== Sys2Proof/Laws/Ops.lean ====
section
/-! SUPPORT. What each shared operation can do, said once. -/

namespace Sys2Proof.Machine

@[simp] theorem Spc.stages_one : Spc.one.stages = 1 := rfl
@[simp] theorem Spc.stages_two : Spc.two.stages = 2 := rfl
@[simp] theorem Spc.stages_four : Spc.four.stages = 4 := rfl
@[simp] theorem Spc.stages_eight : Spc.eight.stages = 8 := rfl

theorem Spc.stages_pos (c : Spc) : 0 < c.stages := by cases c <;> decide

theorem Spc.stages_le (c : Spc) : c.stages ≤ 8 := by cases c <;> decide

theorem Spc.latency_mul_stages (c : Spc) : c.latency * c.stages = 8 := by cases c <;> decide

/-- `m + n` stages are `m` stages and then `n` more. -/
theorem runStages_add (op : Op) (m n k : Nat) (d : Datapath) :
    runStages op (m + n) k d = runStages op n (k + m) (runStages op m k d) := by
  induction m generalizing k d with
  | zero => simp [runStages]
  | succ m ih =>
    rw [Nat.add_right_comm, runStages, ih, runStages, Nat.add_right_comm k 1 m, Nat.add_assoc]

/-- The next stage counter, where the schedule stays within its eight stages. -/
theorem nextStage_toNat {s : State} (h : s.k.toNat + s.spc.stages ≤ 8) :
    (s.k + BitVec.ofNat 4 s.spc.stages).toNat = s.k.toNat + s.spc.stages := by
  have := Spc.stages_le s.spc
  simp only [BitVec.toNat_add, BitVec.toNat_ofNat]
  omega

/-- Everything an advance that does not stop can do: the stages alone, or the stages and the completion. -/
theorem advance_cases {s t : State} (h : advance s = .next t) :
    (s.k.toNat + s.spc.stages < 8 ∧ t = storeStages s.staged s) ∨
    (s.k.toNat + s.spc.stages = 8 ∧ t = complete s.staged.r (storeStages s.staged s)) := by
  unfold advance at h
  split at h
  · cases h; exact .inl ⟨‹_›, rfl⟩
  · split at h
    · cases h; exact .inr ⟨‹_›, rfl⟩
    · cases h

/-- An advance whose schedule stays within stages 0 to 7 does not stop. -/
theorem advance_next {s : State} (h : s.k.toNat + s.spc.stages ≤ 8) : ∃ t, advance s = .next t := by
  unfold advance
  split
  · exact ⟨_, rfl⟩
  · rw [if_pos (by omega)]; exact ⟨_, rfl⟩

/-- Everything the edge that presents a command can do. -/
theorem presentCommand_cases {op : Op} {x : Operand} {s t : State} (h : presentCommand op x s = .next t) :
    (s.booted = false ∧ t = unspecifiedEdge s) ∨
    (s.booted = true ∧ s.busy = false ∧ t = accept op x s) ∨
    (s.booted = true ∧ s.busy = true ∧ advance s = .next t) := by
  unfold presentCommand at h
  split at h
  case isTrue hb =>
    split at h
    case isTrue hy => exact .inr (.inr ⟨hb, hy, h⟩)
    case isFalse hy => cases h; exact .inr (.inl ⟨hb, Bool.eq_false_of_not_eq_true hy, rfl⟩)
  case isFalse hb => cases h; exact .inl ⟨Bool.eq_false_of_not_eq_true hb, rfl⟩

/-- Everything the edge without a command can do. -/
theorem edgeWithoutCommand_cases {s t : State} (h : edgeWithoutCommand s = .next t) :
    (s.booted = false ∧ t = unspecifiedEdge s) ∨
    (s.booted = true ∧ s.busy = false ∧ t = s) ∨
    (s.booted = true ∧ s.busy = true ∧ advance s = .next t) := by
  unfold edgeWithoutCommand at h
  split at h
  case isTrue hb =>
    split at h
    case isTrue hy => exact .inr (.inr ⟨hb, hy, h⟩)
    case isFalse hy => cases h; exact .inr (.inl ⟨hb, Bool.eq_false_of_not_eq_true hy, rfl⟩)
  case isFalse hb => cases h; exact .inl ⟨Bool.eq_false_of_not_eq_true hb, rfl⟩

/-- `exec` is the presenting of the instruction's operation and operand. -/
theorem exec_eq_present (i : Instr) (s : State) : exec i s = presentCommand i.op i.operand s := by
  cases i <;> rfl

/-- The reset registers do not depend on the state before the edge, but for the parameter, the ports and the draws. -/
theorem resetEdge_outputs (s : State) :
    (resetEdge s).outputs = { ready := true, valid := false, idx := 0x00, zero := false } := rfl

end Sys2Proof.Machine
end

