-- ==== Sys2Proof/Laws/Step.lean ====
section
/-! SUPPORT. What one step can do, said once, and the small lemmas of runs. -/

namespace Sys2Proof.Machine

/-- What the sampled ports ask, in terms of the ports. -/
theorem request_reset {p : Inputs} : p.request = .reset ↔ p.rst = true := by
  unfold Inputs.request; split
  · simp_all
  · split <;> simp_all

theorem request_command {p : Inputs} {i : Instr} :
    p.request = .command i ↔ p.rst = false ∧ p.start = true ∧ decodeWord p.commandWord = i := by
  unfold Inputs.request; split
  · simp_all
  · split <;> simp_all

theorem request_noCommand {p : Inputs} : p.request = .noCommand ↔ p.rst = false ∧ p.start = false := by
  unfold Inputs.request; split
  · simp_all
  · split <;> simp_all

/-- The field `op` of a packed command word. -/
@[simp] theorem cmdOp_packCommand (op : Bool) (x : Operand) : cmdOp (packCommand op x) = op := by
  unfold cmdOp packCommand
  rw [BitVec.getLsbD_append]
  simp

/-- The field `X` of a packed command word. -/
@[simp] theorem cmdX_packCommand (op : Bool) (x : Operand) : cmdX (packCommand op x) = x := by
  unfold cmdX packCommand
  apply BitVec.eq_of_getLsbD_eq
  intro j hj
  rw [BitVec.getLsbD_extractLsb', BitVec.getLsbD_append]
  simp [hj]

/-- A command is what its operation and operand make. -/
theorem command_op_operand (i : Instr) : i.op.command i.operand = i := by cases i <;> rfl

/-- The step at a reset edge. -/
theorem step_reset {s : State} (h : s.sampled.rst = true) : step s = .next (resetEdge s.afterSample) := by
  unfold step; rw [request_reset.mpr h]

/-- The step at an edge that presents a command. -/
theorem step_command {s : State} (hr : s.sampled.rst = false) (hs : s.sampled.start = true) :
    step s = exec (decodeWord s.sampled.commandWord) s.afterSample := by
  unfold step; rw [request_command.mpr ⟨hr, hs, rfl⟩]

/-- The step at an edge without a command. -/
theorem step_noCommand {s : State} (hr : s.sampled.rst = false) (hs : s.sampled.start = false) :
    step s = edgeWithoutCommand s.afterSample := by
  unfold step; rw [request_noCommand.mpr ⟨hr, hs⟩]

/-- A busy block advances at every edge without a reset, whatever the other ports carry. -/
theorem step_busy {s : State} (hb : s.booted = true) (hbusy : s.busy = true) (hr : s.sampled.rst = false) :
    step s = advance s.afterSample := by
  cases hs : s.sampled.start with
  | true => rw [step_command hr hs, exec_eq_present]; simp [presentCommand, hb, hbusy]
  | false => rw [step_noCommand hr hs]; simp [edgeWithoutCommand, hb, hbusy]

/-- Everything one step can do: a reset, an edge before the first reset, an accept, an advance, or a hold. -/
theorem step_cases {s t : State} (h : step s = .next t) :
    (s.sampled.rst = true ∧ t = resetEdge s.afterSample) ∨
    (s.sampled.rst = false ∧ s.booted = false ∧ t = unspecifiedEdge s.afterSample) ∨
    (s.sampled.rst = false ∧ s.booted = true ∧ s.busy = false ∧ s.sampled.start = true ∧
      t = accept (decodeWord s.sampled.commandWord).op (decodeWord s.sampled.commandWord).operand s.afterSample) ∨
    (s.sampled.rst = false ∧ s.booted = true ∧ s.busy = true ∧ advance s.afterSample = .next t) ∨
    (s.sampled.rst = false ∧ s.booted = true ∧ s.busy = false ∧ s.sampled.start = false ∧ t = s.afterSample) := by
  cases hr : s.sampled.rst with
  | true => rw [step_reset hr] at h; cases h; exact .inl ⟨rfl, rfl⟩
  | false =>
    right
    cases hs : s.sampled.start with
    | true =>
      rw [step_command hr hs, exec_eq_present] at h
      rcases presentCommand_cases h with ⟨hb, rfl⟩ | ⟨hb, hy, rfl⟩ | ⟨hb, hy, ha⟩ <;> simp_all
    | false =>
      rw [step_noCommand hr hs] at h
      rcases edgeWithoutCommand_cases h with ⟨hb, rfl⟩ | ⟨hb, hy, rfl⟩ | ⟨hb, hy, ha⟩ <;> simp_all

/-- A run of `m + n` edges is a run of `m` and then one of `n`. -/
theorem runEdges_add {m n : Nat} {s t : State} (h : runEdges m s = .next t) :
    runEdges (m + n) s = runEdges n t := by
  induction m generalizing s with
  | zero => cases h; simp
  | succ m ih =>
    rw [Nat.add_right_comm]
    simp only [runEdges] at h ⊢
    split at h <;> first | exact ih h | cases h

/-- What the ports carry over a run, an edge at a time. -/
theorem portsFor_succ {p : Inputs → Prop} {n : Nat} {s t : State} (h : step s = .next t) :
    PortsFor p (n + 1) s ↔ p s.sampled ∧ PortsFor p n t := by
  refine ⟨fun hp => ⟨hp.1, hp.2 t h⟩, fun hp => ⟨hp.1, fun u hu => ?_⟩⟩
  rw [h] at hu; cases hu; exact hp.2

/-- One step of the host's own run, by the step's outcome. -/
theorem hostRun_succ (M : Host.Core) (n : Nat) (s : M.State) :
    (∀ t, M.step s = .next t → M.run (n + 1) s = M.run n t) ∧
    (∀ f, M.step s = .fault f → M.run (n + 1) s = .fault f) ∧
    (∀ r, M.step s = .refused r → M.run (n + 1) s = .refused r) := by
  refine ⟨?_, ?_, ?_⟩ <;> intro _ h <;> simp only [Host.Core.run, h]

/-- The host's own run of the machine is the claims' run. -/
theorem core_run_eq (n : Nat) (s : State) : Host.Core.run Sys2Proof.core n s = runEdges n s := by
  induction n generalizing s with
  | zero => rfl
  | succ n ih =>
    obtain ⟨hn, hf, hr⟩ := hostRun_succ Sys2Proof.core n s
    rw [runEdges]
    cases h : step s with
    | next t => exact (hn t h).trans (ih t)
    | fault f => exact hf f h
    | refused r => exact hr r h

end Sys2Proof.Machine
end

