-- ==== Sys2Proof/Laws/PerInstr.lean ====
section
/-! SUPPORT. Facts about every instruction as syntax, one lemma per constructor. -/

namespace Sys2Proof.Laws

/-- The instruction's command word matches its own row of the opcode table (30_encoding.md R75): bit 256 is the row's, and
the operand bits are the operand's. -/
def TableRow.Statement (i : Instr) : Prop :=
  i.wellFormed = true ∧ cmdX (encode i) = i.operand ∧
    cmdOp (encode i) = (match i with | .bsf _ => false | .bsr _ => true)

theorem TableRow.bsf (x : Operand) : TableRow.Statement (.bsf x) := by
  simp [TableRow.Statement, encode, Instr.wellFormed, Instr.op, Instr.operand, Op.bit]

theorem TableRow.bsr (x : Operand) : TableRow.Statement (.bsr x) := by
  simp [TableRow.Statement, encode, Instr.wellFormed, Instr.op, Instr.operand, Op.bit]

end Sys2Proof.Laws
end

