-- ==== Sys2Proof/Tests/Slice0.lean ====
section
/-! SUPPORT. Checks of the model on values the spec gives (95_test_vectors.md and the rules named), and one concrete case
that meets the hypotheses of each obligation. -/

namespace Sys2Proof.Tests

open Sys2Proof Sys2Proof.Machine

/-! ### Helpers -/

/-- The state after one step, where there is one. -/
def after (s : State) : Option State :=
  match step s with
  | .next t => some t
  | .fault _ => none
  | .refused _ => none

/-- What `after` answers is the step's next state. -/
theorem step_of_after {s t : State} (h : after s = some t) : step s = .next t := by
  unfold after at h
  split at h <;> simp_all

/-- Port values at an edge with neither reset nor start. -/
def idlePorts : Inputs := { rst := false, start := false, op := false, x := 0 }

/-- Port values at a reset edge. -/
def resetPorts : Inputs := { rst := true, start := true, op := true, x := 5 }

/-- Port values that present `BSF <x>`. -/
def bsfPorts (x : Operand) : Inputs := { rst := false, start := true, op := false, x := x }

/-- Port values that present `BSR <x>`. -/
def bsrPorts (x : Operand) : Inputs := { rst := false, start := true, op := true, x := x }

/-- The block after reset, with the port values of the coming edges. -/
def fresh (inputs : List Inputs) : State := { State.reset with inputs := inputs }

/-- The block right after the accept of a command. -/
def busyWith (c : Spc) (op : Op) (x : Operand) (inputs : List Inputs) : State :=
  accept op x { fresh inputs with spc := c }

/-! ### WellFormed: each check refuses an ill-formed term -/

theorem test_every_command_is_wellFormed : (Instr.bsf 0).wellFormed = true ∧ (Instr.bsr 0).wellFormed = true := by decide

theorem test_decimal_at_the_bound : (Literal.decimal (2 ^ 256 - 1)).wellFormed = true ∧
    (Literal.decimal (2 ^ 256)).wellFormed = false := by decide

theorem test_hex_digit_count : (Literal.hex (List.replicate 64 15)).wellFormed = true ∧
    (Literal.hex (List.replicate 65 0)).wellFormed = false ∧ (Literal.hex []).wellFormed = false := by decide

theorem test_exponents_at_the_bound : (Literal.pow 255).wellFormed = true ∧ (Literal.pow 256).wellFormed = false ∧
    (Literal.powMinusOne 256).wellFormed = true ∧ (Literal.powMinusOne 257).wellFormed = false ∧
    (Literal.powSum 255 0).wellFormed = true ∧ (Literal.powSum 255 255).wellFormed = false := by decide +kernel

/-! ### Decoding: words written out from 30_encoding.md R70, R75 and 95_test_vectors.md P1 to P5 -/

theorem test_decode_bsf_p1 :
    decodeTableWord 264 0x00000000000000100000000000000000000000000000000000000000000000000 =
      some (.bsf (1#256 <<< 200)) := by decide +kernel

theorem test_decode_bsr_p1 :
    decodeTableWord 264 0x10000000000000100000000000000000000000000000000000000000000000000 =
      some (.bsr (1#256 <<< 200)) := by decide +kernel

theorem test_decode_bsf_p5 :
    decodeTableWord 264 0x07fffffffffffffffffffffffffffffffffffffffffffffffffffffffffffffff =
      some (.bsf ((1#256 <<< 255) - 1)) := by decide +kernel

theorem test_decode_refuses_bit_257 :
    decodeTableWord 264 0x20000000000000000000000000000000000000000000000000000000000000000 = none := by decide +kernel

theorem test_encode_bsr_p4 :
    encode (.bsr 0xf0) = 0x100000000000000000000000000000000000000000000000000000000000000f0#257 := by decide +kernel

/-! ### The assembler (30_encoding.md R78) -/

theorem test_assemble_bsf_hex : assemble ['B', 'S', 'F', ' ', '0', 'x', '5', '0'] = .ok (.bsf 0x50) := by rfl

theorem test_assemble_bsr_sum :
    assemble ['B', 'S', 'R', ' ', '2', '^', '7', '7', ' ', '+', ' ', '2', '^', '3'] =
      .ok (.bsr 0x20000000000000000008) := by rfl

theorem test_assemble_refuses_other_text : assemble ['B', 'S', 'F', ' ', '1', '2', 'a'] = .error .notALine := by rfl

theorem test_show_results : showResult (.index 200) = ['-', '>', ' ', 'i', 'd', 'x', '=', '2', '0', '0'] := by
  decide +kernel

/-! ### One step of each instruction -/

/-- P1, edge 1: the accept of `BSF 2^200`. -/
theorem test_bsf_accept : after (fresh [bsfPorts (1#256 <<< 200)]) =
    some (busyWith .eight .bsf (1#256 <<< 200) []) := by decide +kernel

/-- P2, edge 4: `BSF 0x50` completes with 4; end state `R = 4`, `W = 5`, `K = 8`. -/
theorem test_bsf_completion :
    (after (busyWith .eight .bsf 0x50 [idlePorts])).map (fun t => (t.outputs, t.r, t.w, t.k)) =
      some (⟨true, true, 4, false⟩, 4, 5, 8) := by decide +kernel

/-- P4, edge 1: the accept of `BSR 0xf0`. -/
theorem test_bsr_accept : after (fresh [bsrPorts 0xf0]) = some (busyWith .eight .bsr 0xf0 []) := by decide +kernel

/-- P2, edge 2: `BSR 0` completes with `ZeroValue`, `RSP = 0x100`. -/
theorem test_bsr_zero_completion :
    (after (busyWith .eight .bsr 0 [idlePorts])).map (fun t => (t.outputs, t.response)) =
      some (⟨true, true, 0, true⟩, some 0x100#9) := by decide +kernel

/-- P4, edge 2: with `SPC = 2` a busy edge runs two stages and drops the `BSF 0x8000` presented. -/
theorem test_busy_edge_drops_start :
    after (busyWith .two .bsr 0xf0 [bsfPorts 0x8000]) = some { busyWith .two .bsr 0xf0 [] with k := 2 } := by
  decide +kernel

/-- T1: the trace of `BSR 0xf0` before stages 6 and 7 and at its end. -/
theorem test_bsr_trace : (List.map (fun n => runStages .bsr n 0 (initialDatapath .bsr 0xf0)) [6, 7, 8]) =
    [⟨0xf, 4⟩, ⟨0x3, 6⟩, ⟨0x3, 7⟩] := by decide +kernel

/-- T7: the trace of `BSF 2^128 + 2^127` before stage 1, before stage 7 and at its end. -/
theorem test_bsf_trace :
    (List.map (fun n => runStages .bsf n 0 (initialDatapath .bsf (3#256 <<< 127))) [1, 7, 8]) =
      [⟨3#256 <<< 127, 127⟩, ⟨6, 127⟩, ⟨3, 127⟩] := by decide +kernel

/-- A word on the ports is run by the next step. -/
theorem test_placed_word_runs :
    after (State.reset.withFetchWord 264 0x100000000000000000000000000000000000000000000000000000000000000f0) =
      some (busyWith .eight .bsr 0xf0 []) := by decide +kernel

/-! ### A case for the hypotheses of each obligation -/

theorem witness_decodeOfEncodeIsIdentity : (Instr.bsr (BitVec.allOnes 256)).wellFormed = true := rfl

theorem witness_everyCommandWordIsOneCommand : encode (.bsf 5) = 5#257 := by decide +kernel

/-- The bounds of 30_encoding.md R78, each at its last accepted and first refused value, but for those of hex digits. -/
theorem witness_assemblerAcceptsExactlyTheLiteralForms :
    2 ^ 256 - 1 < 2 ^ 256 ∧ 2 ^ 256 ≤ 2 ^ 256 ∧ 255 ≤ 255 ∧ 255 < 256 ∧ 256 ≤ 256 ∧ 256 < 257 ∧
      (255 ≤ 255 ∧ 254 ≤ 255 ∧ ¬ (255 = 255 ∧ 254 = 255)) := by decide

/-- 1 and 64 hex digits are accepted, none and 65 refused. -/
theorem witness_assemblerAcceptsHexDigits :
    assembleLine ⟨.bsf, .hex [15]⟩ = .ok (.bsf 15) ∧
      assembleLine ⟨.bsr, .hex (List.replicate 64 15)⟩ = .ok (.bsr (BitVec.allOnes 256)) ∧
      assembleLine ⟨.bsf, .hex []⟩ = .error .literalOutOfRange ∧
      assembleLine ⟨.bsf, .hex (List.replicate 65 0)⟩ = .error .literalOutOfRange := by decide +kernel

/-- `2^256 - 1`, the exception of 30_encoding.md R78, as a text of the grammar and as the reader takes it. -/
theorem witness_assemblerReadsText :
    LiteralText ['2', '^', '2', '5', '6', ' ', '-', ' ', '1'] (BitVec.allOnes 256).toNat ∧
      assemble ['B', 'S', 'F', ' ', '2', '^', '2', '5', '6', ' ', '-', ' ', '1'] = .ok (.bsf (BitVec.allOnes 256)) :=
  ⟨.powMinusOne (e := ['2', '5', '6']) (n := 256) ⟨[2, 5, 6], by decide, rfl, by decide⟩ (by decide) (.inl rfl),
    by decide +kernel⟩

theorem witness_windowWidthsAndConstants : 6 < 7 ∧ 7 ≤ 7 ∧ 255 < 256 := by decide

theorem witness_bsrStageTestsShiftsAndAdds :
    6 < 7 ∧ 2 ^ window 6 ≤ (4#256).toNat ∧ (3#256).toNat < 2 ^ window 6 := by decide +kernel

theorem witness_bsrLastStageAddsWithoutShift : 2 ≤ (2#256).toNat ∧ (1#256).toNat < 2 := by decide +kernel

theorem witness_bsfStageTestsTheLowHalf :
    7 ≤ 7 ∧ (1#256).toNat % 2 ^ window 7 ≠ 0 ∧ (2#256).toNat % 2 ^ window 7 = 0 := by decide +kernel

theorem witness_accumulatorNeverWraps : 7 ≤ 7 := by decide

theorem witness_shiftsAreByTheWindows : 0 ≤ 7 ∧ 7 ≤ 7 := by decide

theorem witness_stageGroupingDoesNotMatter : [1, 0, 2, 5].sum = 8 := by decide

theorem witness_bsrWindowInvariant :
    (0xf0#256) ≠ 0 ∧ 7 ≤ 7 ∧ (⟨0x3, 6⟩ : Datapath) = runStages .bsr 7 0 (initialDatapath .bsr 0xf0) ∧
      IsMsb (3#256) 1 := by decide +kernel

theorem witness_bsfWindowInvariant :
    (0x50#256) ≠ 0 ∧ 6 ≤ 7 ∧ (⟨0x5, 7⟩ : Datapath) = runStages .bsf 6 0 (initialDatapath .bsf 0x50) ∧
      IsLsb (0x50#256) 4 := by decide +kernel

theorem witness_rawAccumulatorOnZeroOperand : 8 ≤ 8 ∧ 7 ≤ 7 := by decide

theorem witness_lsbIsAtMostMsb : (1#256) ≠ 0 := by decide +kernel

theorem witness_cornerCases : 255 ≤ 255 ∧ 7 ≤ 7 ∧ 1 ≤ 7 := by decide

theorem witness_stepRunsThePresentedCommand :
    (fresh [bsfPorts 3]).sampled.rst = false ∧ (fresh [bsfPorts 3]).sampled.start = true ∧
      decodeWord (fresh [bsfPorts 3]).sampled.commandWord = .bsf 3 := by decide +kernel

theorem witness_placedWordRunsAtTheNextStep : decodeTableWord 264 0x50 = some (.bsf 0x50) := by decide +kernel

theorem witness_resetEdgeClearsTheBlock : (busyWith .one .bsf 7 [resetPorts]).sampled.rst = true := rfl

theorem witness_powerUpEndsAtTheFirstReset :
    (State.powerUp .one [idlePorts] 0).booted = false ∧ (State.powerUp .one [idlePorts] 0).sampled.rst = false ∧
      (State.powerUp .one [resetPorts] 0).sampled.rst = true := ⟨rfl, rfl, rfl⟩

theorem witness_acceptLatchesTheCommand :
    (fresh [bsrPorts 3]).booted = true ∧ (fresh [bsrPorts 3]).busy = false ∧
      (fresh [bsrPorts 3]).sampled.rst = false ∧ (fresh [bsrPorts 3]).sampled.start = true ∧
      idlePorts.rst = (bsrPorts 9).rst := ⟨rfl, rfl, rfl, rfl, rfl⟩

/-- With `SPC = 4` the first busy edge leaves `K = 4`; with `SPC = 8` it leaves `K = 8`. -/
theorem witness_advanceRunsSpcStages :
    (busyWith .four .bsf 7 [idlePorts]).booted = true ∧ (busyWith .four .bsf 7 [idlePorts]).busy = true ∧
      LegalSchedule (busyWith .four .bsf 7 [idlePorts]) ∧ LegalSchedule (busyWith .eight .bsf 7 [idlePorts]) ∧
      (busyWith .four .bsf 7 [idlePorts]).sampled.rst = false ∧
      (after (busyWith .four .bsf 7 [idlePorts])).map (fun t => t.k) = some 4 ∧
      (after (busyWith .eight .bsf 7 [idlePorts])).map (fun t => t.k) = some 8 := by decide +kernel

theorem witness_completionSelectsTheResult :
    (busyWith .eight .bsf 0 [idlePorts]).booted = true ∧ (busyWith .eight .bsf 0 [idlePorts]).busy = true ∧
      (busyWith .eight .bsf 0 [idlePorts]).k.toNat + Spc.eight.stages = 8 ∧
      (busyWith .eight .bsf 0 [idlePorts]).sampled.rst = false ∧
      (busyWith .eight .bsf 0 [idlePorts]).zq = true ∧ (busyWith .eight .bsf 1 [idlePorts]).zq = false := by
  decide +kernel

theorem witness_holdKeepsEveryRegister :
    (fresh [idlePorts]).booted = true ∧ (fresh [idlePorts]).busy = false ∧ QuietFor 1 (fresh [idlePorts]) :=
  ⟨rfl, rfl, ⟨rfl, rfl⟩, fun _ _ => trivial⟩

theorem witness_commandWhileBusyIsDropped :
    (busyWith .two .bsr 0xf0 []).booted = true ∧ (busyWith .two .bsr 0xf0 []).busy = true := ⟨rfl, rfl⟩

theorem witness_operandPortsMatterOnlyAtAccept :
    (bsfPorts 1).rst = (bsrPorts 2).rst ∧ (bsfPorts 1).start = (bsrPorts 2).start ∧
      ¬ ((bsfPorts 1).rst = false ∧ (busyWith .two .bsr 0xf0 []).busy = false ∧ (bsfPorts 1).start = true) := by
  decide +kernel

theorem witness_stepFrame :
    step (fresh [bsrPorts 3, idlePorts]) = .next (busyWith .eight .bsr 3 [idlePorts]) ∧
      (fresh [bsrPorts 3, idlePorts]).booted = true := ⟨step_of_after (by decide +kernel), rfl⟩

/-- Both instructions accepted by an idle block, and one dropped by a busy block before and at its last stages. -/
theorem witness_presentedCommandFrame :
    exec (.bsf 3) (fresh []) = .next (busyWith .eight .bsf 3 []) ∧
      exec (.bsr 3) (fresh []) = .next (busyWith .eight .bsr 3 []) ∧
      exec (.bsf 1) (busyWith .two .bsr 0xf0 []) = .next { busyWith .two .bsr 0xf0 [] with k := 2 } ∧
      (busyWith .two .bsr 0xf0 []).k.toNat + Spc.two.stages < 8 := ⟨rfl, rfl, rfl, by decide⟩

theorem witness_resultChangesOnlyAtCompletionOrReset :
    ∃ t, (busyWith .eight .bsf 0x50 [idlePorts]).booted = true ∧
      step (busyWith .eight .bsf 0x50 [idlePorts]) = .next t ∧
      t.ridx ≠ (busyWith .eight .bsf 0x50 [idlePorts]).ridx :=
  ⟨{ busyWith .eight .bsf 0x50 [] with w := 5, r := 4, k := 8, busy := false, valid := true, ridx := 4 }, rfl,
    step_of_after (by decide +kernel), by decide +kernel⟩

/-- A reset with one quiet edge to come, for `L = 1`. -/
theorem witness_bsfCommandPresentsTheLsb :
    (fresh [idlePorts]).booted = true ∧ (fresh [idlePorts]).busy = false ∧
      NoResetFor (fresh [idlePorts]).spc.latency (busyWith .eight .bsf 0x50 [idlePorts]) ∧
      (0#256) = 0 ∧ (0x50#256) ≠ 0 := ⟨rfl, rfl, ⟨rfl, fun _ _ => trivial⟩, rfl, by decide +kernel⟩

theorem witness_bsrCommandPresentsTheMsb :
    (fresh [idlePorts]).booted = true ∧ (fresh [idlePorts]).busy = false ∧
      NoResetFor (fresh [idlePorts]).spc.latency (busyWith .eight .bsr 0xf0 [idlePorts]) ∧
      (0#256) = 0 ∧ (0xf0#256) ≠ 0 := ⟨rfl, rfl, ⟨rfl, fun _ _ => trivial⟩, rfl, by decide +kernel⟩

theorem witness_acceptedCommandCompletesAfterLEdges :
    (fresh [bsrPorts 3, idlePorts]).booted = true ∧ (fresh [bsrPorts 3, idlePorts]).busy = false ∧
      (fresh [bsrPorts 3, idlePorts]).sampled.rst = false ∧ (fresh [bsrPorts 3, idlePorts]).sampled.start = true ∧
      decodeWord (fresh [bsrPorts 3, idlePorts]).sampled.commandWord = .bsr 3 ∧
      0 < (fresh [bsrPorts 3, idlePorts]).spc.latency ∧
      NoResetFor ((fresh [bsrPorts 3, idlePorts]).spc.latency + 1) (fresh [bsrPorts 3, idlePorts]) :=
  ⟨rfl, rfl, rfl, rfl, by decide +kernel, by decide,
    (portsFor_succ (step_of_after (t := busyWith .eight .bsr 3 [idlePorts]) (by decide +kernel))).mpr
      ⟨rfl, rfl, fun _ _ => trivial⟩⟩

/-- The holding clauses after a completion: one quiet edge, and one edge that accepts the next command. -/
theorem witness_acceptedCommandHoldsItsResult :
    QuietFor 1 { fresh [idlePorts] with valid := true, ridx := 1 } ∧
      runEdges 1 { fresh [idlePorts] with valid := true, ridx := 1 } =
        .next { fresh [] with valid := true, ridx := 1 } ∧
      NoResetFor 1 { fresh [bsfPorts 3] with valid := true, ridx := 1 } ∧
      ¬ ({ fresh [bsfPorts 3] with valid := true, ridx := 1 }).busy = true :=
  ⟨⟨⟨rfl, rfl⟩, fun _ _ => trivial⟩, rfl, ⟨rfl, fun _ _ => trivial⟩, by decide⟩

theorem witness_clockedBlockRefinesScan :
    (fresh [bsfPorts 9]).booted = true ∧ (fresh [bsfPorts 9]).busy = false ∧
      NoResetFor (fresh [bsfPorts 9]).spc.latency (accept .bsr 3 (fresh [bsfPorts 9])) :=
  ⟨rfl, rfl, rfl, fun _ _ => trivial⟩

theorem witness_latencyAndEarliestNextAccept :
    (fresh [bsfPorts 0, bsrPorts 1]).booted = true ∧ (fresh [bsfPorts 0, bsrPorts 1]).busy = false ∧
      (fresh [bsfPorts 0, bsrPorts 1]).sampled.rst = false ∧ (fresh [bsfPorts 0, bsrPorts 1]).sampled.start = true ∧
      0 < (fresh [bsfPorts 0, bsrPorts 1]).spc.latency ∧
      NoResetFor ((fresh [bsfPorts 0, bsrPorts 1]).spc.latency + 1) (fresh [bsfPorts 0, bsrPorts 1]) :=
  ⟨rfl, rfl, rfl, rfl, by decide,
    (portsFor_succ (step_of_after (t := busyWith .eight .bsf 0 [bsrPorts 1]) (by decide +kernel))).mpr
      ⟨rfl, rfl, fun _ _ => trivial⟩⟩

/-- Two idle blocks with different histories, and different ports while the command is in flight. -/
theorem witness_resultDependsOnTheCommandAlone :
    (fresh [idlePorts]).booted = true ∧ (fresh [idlePorts]).busy = false ∧
      ({ fresh [bsrPorts 1] with ridx := 9, valid := true }).booted = true ∧
      ({ fresh [bsrPorts 1] with ridx := 9, valid := true }).busy = false ∧
      NoResetFor (fresh [idlePorts]).spc.latency (accept .bsf 6 (fresh [idlePorts])) ∧
      NoResetFor (fresh [bsrPorts 1]).spc.latency
        (accept .bsf 6 { fresh [bsrPorts 1] with ridx := 9, valid := true }) :=
  ⟨rfl, rfl, rfl, rfl, ⟨rfl, fun _ _ => trivial⟩, rfl, fun _ _ => trivial⟩

/-- In flight right after the accept: before its last stages with `SPC = 4`, at its last with `SPC = 8`. -/
theorem witness_completionBelongsToTheCommandInFlight :
    InFlight .bsr 0xf0 (busyWith .four .bsr 0xf0 [idlePorts]) ∧
      (busyWith .four .bsr 0xf0 [idlePorts]).k.toNat + Spc.four.stages < 8 ∧
      InFlight .bsr 0xf0 (busyWith .eight .bsr 0xf0 [idlePorts]) ∧
      (busyWith .eight .bsr 0xf0 [idlePorts]).k.toNat + Spc.eight.stages = 8 ∧
      (busyWith .four .bsr 0xf0 [idlePorts]).sampled.rst = false :=
  ⟨⟨rfl, rfl, rfl, by decide, rfl, rfl, rfl⟩, by decide, ⟨rfl, rfl, rfl, by decide, rfl, rfl, rfl⟩, by decide, rfl⟩

theorem witness_zeroValueNeedsNoRecovery :
    InFlight .bsf 0 (busyWith .eight .bsf 0 [idlePorts]) ∧
      (busyWith .eight .bsf 0 [idlePorts]).k.toNat + Spc.eight.stages = 8 ∧
      (busyWith .eight .bsf 0 [idlePorts]).sampled.rst = false :=
  ⟨⟨rfl, rfl, rfl, by decide, rfl, rfl, rfl⟩, by decide, rfl⟩

theorem witness_undefinedStageStopsByName :
    ({ busyWith .eight .bsf 7 [] with k := 1 }).booted = true ∧ ({ busyWith .eight .bsf 7 [] with k := 1 }).busy = true ∧
      8 < ({ busyWith .eight .bsf 7 [] with k := 1 }).k.toNat + Spc.eight.stages := ⟨rfl, rfl, by decide⟩

theorem witness_resetAbandonsTheCommandInFlight :
    (busyWith .one .bsf 7 [resetPorts]).busy = true ∧ (busyWith .one .bsf 7 [resetPorts]).sampled.rst = true :=
  ⟨rfl, rfl⟩

/-- A run after a reset edge that ends with `valid = 1`: `BSF 7` is abandoned, `BSF 12` accepted and completed. -/
theorem witness_resetThenLaterCommandCompletes :
    ∃ t v, step (busyWith .eight .bsf 7 [resetPorts, bsfPorts 12, idlePorts]) = .next t ∧ runEdges 2 t = .next v ∧
      v.valid = true ∧ v.result = some (.index 2) :=
  have accepted : step (resetEdge (busyWith .eight .bsf 7 [bsfPorts 12, idlePorts])) =
      .next { busyWith .eight .bsf 12 [idlePorts] with draws := 1 } := step_of_after (by decide +kernel)
  have completed : step { busyWith .eight .bsf 12 [idlePorts] with draws := 1 } =
      .next { busyWith .eight .bsf 12 [] with
        draws := 1, w := 3, r := 2, k := 8, busy := false, valid := true, ridx := 2 } := step_of_after (by decide +kernel)
  ⟨resetEdge (busyWith .eight .bsf 7 [bsfPorts 12, idlePorts]), _, rfl,
    by rw [runEdges, accepted]; dsimp only; rw [runEdges, completed]; rfl, rfl, rfl⟩

theorem witness_hiddenRegistersReachNoOutput :
    IdleAlike (fresh [bsfPorts 3]) { fresh [bsfPorts 3] with w := 5, r := 6, k := 15, opq := .bsr, zq := true } ∧
      runEdges 1 (fresh [bsfPorts 3]) = .next (busyWith .eight .bsf 3 []) :=
  ⟨⟨⟨rfl, rfl⟩, ⟨rfl, rfl⟩, rfl, rfl, rfl, rfl, rfl, rfl⟩, rfl⟩

theorem witness_everyStepKeepsLegal :
    Legal (fresh [bsrPorts 3]) ∧ step (fresh [bsrPorts 3]) = .next (busyWith .eight .bsr 3 []) :=
  ⟨by decide, step_of_after (by decide +kernel)⟩

theorem witness_legalRunsNeverStop : Legal (busyWith .one .bsf 7 []) := by decide +kernel

theorem witness_everyBusyStateIsMidCommand :
    ((busyWith .two .bsr 0xf0 [idlePorts]).booted = true → (busyWith .two .bsr 0xf0 [idlePorts]).busy = true →
        ∃ x, InFlight .bsr x (busyWith .two .bsr 0xf0 [idlePorts])) ∧
      step (busyWith .two .bsr 0xf0 [idlePorts]) = .next { busyWith .two .bsr 0xf0 [] with k := 2 } :=
  ⟨fun _ _ => ⟨0xf0, rfl, rfl, rfl, by decide, rfl, rfl, rfl⟩, rfl⟩

/-- A failure, a success and a block with no result. -/
theorem witness_responseWordPresentsOneOutcome :
    Legal { State.reset with valid := true, rzero := true } ∧ Legal { State.reset with valid := true, ridx := 255 } ∧
      Legal State.reset ∧ State.reset.valid = false ∧ State.reset.booted = true := by decide +kernel

theorem witness_instancesDoNotInterfere :
    ([fresh [], fresh [bsfPorts 3]] : List State)[1]? = ([fresh [bsrPorts 9], fresh [bsfPorts 3]] : List State)[1]? := rfl

end Sys2Proof.Tests
end

