-- ==== Sys2Proof/Proofs/Scope.lean ====
section
/-! The frame of a step (00_scope.md R5, 10_state.md R29, 70_reset_and_hazards.md R182): its scope is the control, datapath
and result registers; the parameter is never written, and the host's list of port values is only sampled. -/

namespace Sys2Proof.Machine

/-- An advance writes only the datapath, stage, control and result registers. -/
theorem advance_frame {s t : State} (h : advance s = .next t) :
    t.spc = s.spc ∧ t.inputs = s.inputs ∧ t.booted = s.booted ∧ t.draws = s.draws := by
  obtain ⟨-, rfl⟩ | ⟨-, rfl⟩ := advance_cases h
  · -- the stages alone
    simp
  · -- the stages and the completion
    simp

/-- Settles O31: in each case of a step the ports are sampled first, which uses up one entry, and the operation that
follows writes none of the three fields, but for a reset edge, which sets `booted`. -/
theorem stepFrame : Obligations.StepFrame := by
  intro s t h
  rcases step_cases h with ⟨-, rfl⟩ | ⟨-, -, rfl⟩ | ⟨-, -, -, -, rfl⟩ | ⟨-, -, -, ha⟩ | ⟨-, -, -, -, rfl⟩
  · -- a reset edge
    simp
  · -- an edge before the first reset
    simp
  · -- an accept edge
    simp
  · -- an advance edge
    obtain ⟨hspc, hinputs, hbooted, -⟩ := advance_frame ha
    simp [hspc, hinputs, hbooted]
  · -- a hold edge
    simp

end Sys2Proof.Machine
end

/-! The encoder's answer: eight stages leave the index of the set bit in the accumulator, by one window invariant per
operation (40_encoder.md R105 to R108, 41_bsr.md R122 to R125, 42_bsf.md R142 to R144). -/

namespace Sys2Proof.Machine

/-! ### Stages and windows -/

/-- One stage more is the next stage run on what the earlier ones made. -/
theorem runStages_succ (op : Op) (n k : Nat) (d : Datapath) :
    runStages op (n + 1) k d = stage op (k + n) (runStages op n k d) :=
  runStages_add op n 1 k d

theorem window_pos (k : Nat) : 1 ≤ window k := Nat.two_pow_pos (7 - k)

theorem window_le (k : Nat) : window k ≤ 128 :=
  Nat.pow_le_pow_right (n := 2) (by decide) (Nat.sub_le 7 k)

theorem two_mul_window_succ {k : Nat} (hk : k < 7) : 2 * window (k + 1) = window k := by
  unfold window
  rw [← Nat.pow_succ', show (7 - (k + 1)).succ = 7 - k by omega]

/-- Before stage `k` there are `2^(8-k)` candidate bits, two windows. -/
theorem two_pow_eight_sub {k : Nat} (hk : k ≤ 7) : 2 ^ (8 - k) = 2 * window k := by
  unfold window
  rw [← Nat.pow_succ', show (7 - k).succ = 8 - k by omega]

/-- After stage `k` there is one window left. -/
theorem two_pow_eight_sub_succ (k : Nat) : 2 ^ (8 - (k + 1)) = window k := by
  unfold window
  rw [show 8 - (k + 1) = 7 - k by omega]

theorem toNat_ofNat_window (k : Nat) : (BitVec.ofNat 8 (window k)).toNat = window k := by
  have := window_le k
  rw [BitVec.toNat_ofNat]; omega

theorem toNat_mask (k : Nat) : (mask k).toNat = 2 ^ window k - 1 := by
  have : 2 ^ window k ≤ 2 ^ 128 := Nat.pow_le_pow_right (by decide) (window_le k)
  rw [mask, BitVec.toNat_ofNat]; omega

/-- The BSF test as a remainder: the masked bits are zero exactly when the low window is. -/
theorem and_mask_eq_zero_iff (w : Operand) (k : Nat) : w &&& mask k = 0 ↔ w.toNat % 2 ^ window k = 0 := by
  rw [← BitVec.toNat_inj, BitVec.toNat_and, toNat_mask, Nat.and_two_pow_sub_one_eq_mod]
  rfl

theorem toNat_operand_shiftRight (x : Operand) (n : Nat) : (x >>> n).toNat = x.toNat / 2 ^ n := by
  rw [BitVec.toNat_ushiftRight, Nat.shiftRight_eq_div_pow]

/-! ### BSR -/

/-- The most significant set bit of a shifted operand, in the operand. -/
theorem isMsb_of_isMsb_shiftRight {x : Operand} {n m : Nat} (h : IsMsb (x >>> n) m) : IsMsb x (n + m) := by
  obtain ⟨hle, hlt⟩ := h
  rw [toNat_operand_shiftRight, Nat.le_div_iff_mul_le (Nat.two_pow_pos n)] at hle
  rw [toNat_operand_shiftRight, Nat.div_lt_iff_lt_mul (Nat.two_pow_pos n)] at hlt
  exact ⟨by rwa [Nat.add_comm, Nat.pow_add], by rwa [Nat.add_assoc, Nat.add_comm, Nat.pow_add]⟩

/-- The BSR invariant before stage `k` (41_bsr.md R124), with the room the accumulator has before it would wrap. -/
structure BsrWindow (x : Operand) (k : Nat) (d : Datapath) : Prop where
  shifted : d.w = x >>> d.r.toNat
  pos : 1 ≤ d.w.toNat
  lt : d.w.toNat < 2 ^ (2 * window k)
  room : d.r.toNat + 2 * window k ≤ 256

theorem bsrWindow_initial {x : Operand} (hx : x ≠ 0) : BsrWindow x 0 (initialDatapath .bsr x) where
  shifted := (BitVec.ushiftRight_zero x).symm
  pos := Nat.pos_of_ne_zero fun h => hx (BitVec.eq_of_toNat_eq h)
  lt := x.isLt
  room := Nat.le_refl 256

/-- Adding a window to the accumulator does not wrap (40_encoder.md R107). -/
theorem BsrWindow.toNat_add_window {x : Operand} {k : Nat} {d : Datapath} (h : BsrWindow x k d) :
    (d.r + BitVec.ofNat 8 (window k)).toNat = d.r.toNat + window k := by
  have hroom := h.room
  have hpos := window_pos k
  rw [BitVec.toNat_add, toNat_ofNat_window, Nat.mod_eq_of_lt (by omega)]

theorem BsrWindow.stage {x : Operand} {k : Nat} {d : Datapath} (hk : k < 7) (h : BsrWindow x k d) :
    BsrWindow x (k + 1) (stage .bsr k d) := by
  have hadd := h.toNat_add_window
  have hroom := h.room
  have hhalf := two_mul_window_succ hk
  simp only [Machine.stage, stageBsr, threshold, if_pos hk]
  split
  case isTrue hge =>
    constructor
    · rw [hadd, BitVec.shiftRight_add, ← h.shifted]
    · simp only [toNat_operand_shiftRight]
      exact Nat.div_pos hge (Nat.two_pow_pos _)
    · simp only [toNat_operand_shiftRight]
      rw [hhalf, Nat.div_lt_iff_lt_mul (Nat.two_pow_pos _), ← Nat.pow_add, ← Nat.two_mul]
      exact h.lt
    · simp only [hadd]; omega
  case isFalse hlt => exact ⟨h.shifted, h.pos, by rw [hhalf]; omega, by omega⟩

theorem bsrWindow_runStages {x : Operand} (hx : x ≠ 0) {k : Nat} (hk : k ≤ 7) :
    BsrWindow x k (runStages .bsr k 0 (initialDatapath .bsr x)) := by
  induction k with
  | zero => exact bsrWindow_initial hx
  | succ k ih =>
    rw [runStages_succ, Nat.zero_add]
    exact (ih (by omega)).stage hk

/-- The last stage adds the one bit that is left to find (41_bsr.md R123, R125). -/
theorem BsrWindow.isMsb_lastStage {x : Operand} {d : Datapath} (h : BsrWindow x 7 d) :
    IsMsb x (Machine.stage .bsr 7 d).r.toNat := by
  have hw : d.w.toNat < 4 := h.lt
  have hpos := h.pos
  have hadd : (d.r + BitVec.ofNat 8 (window 7)).toNat = d.r.toNat + 1 := h.toNat_add_window
  simp only [Machine.stage, stageBsr]
  split
  case isTrue hge =>
    have hge : 2 ≤ d.w.toNat := hge
    rw [hadd]
    have hone : IsMsb (x >>> d.r.toNat) 1 := by rw [← h.shifted]; exact ⟨hge, hw⟩
    exact isMsb_of_isMsb_shiftRight hone
  case isFalse hlt =>
    have hlt : ¬ 2 ≤ d.w.toNat := hlt
    have hone : IsMsb (x >>> d.r.toNat) 0 := by rw [← h.shifted]; exact ⟨hpos, by omega⟩
    exact isMsb_of_isMsb_shiftRight hone

theorem isMsb_runStages {x : Operand} (hx : x ≠ 0) : IsMsb x (runStages .bsr 8 0 (initialDatapath .bsr x)).r.toNat := by
  rw [runStages_succ]
  exact (bsrWindow_runStages hx (Nat.le_refl 7)).isMsb_lastStage

/-! ### BSF -/

/-- The BSF invariant before stage `k` (42_bsf.md R143): `W` is the operand less `O_k` clear low bits, a bit is set
among its low `2^(8-k)`, and the accumulator is the highest index that bit can have. -/
structure BsfWindow (x : Operand) (k : Nat) (d : Datapath) : Prop where
  shifted : d.w = x >>> bsfShift x k
  clear : ∀ j < bsfShift x k, x.getLsbD j = false
  nonzero : d.w.toNat % 2 ^ 2 ^ (8 - k) ≠ 0
  accumulator : d.r.toNat + 1 = bsfShift x k + 2 ^ (8 - k)

theorem bsfWindow_initial {x : Operand} (hx : x ≠ 0) : BsfWindow x 0 (initialDatapath .bsf x) where
  shifted := (BitVec.ushiftRight_zero x).symm
  clear j hj := absurd hj (Nat.not_lt_zero j)
  nonzero h := hx (BitVec.eq_of_toNat_eq ((Nat.mod_eq_of_lt x.isLt).symm.trans h))
  accumulator := rfl

/-- A zero low window of `W` is that many clear bits of the operand. -/
theorem BsfWindow.clear_of_low_zero {x : Operand} {k : Nat} {d : Datapath} (h : BsfWindow x k d)
    (hlow : d.w.toNat % 2 ^ window k = 0) : ∀ j < bsfShift x k + window k, x.getLsbD j = false := by
  intro j hj
  by_cases hlt : j < bsfShift x k
  · exact h.clear j hlt
  · have hbit : d.w.getLsbD (j - bsfShift x k) = false := by
      have := Nat.testBit_mod_two_pow d.w.toNat (window k) (j - bsfShift x k)
      rw [hlow, Nat.zero_testBit] at this
      simpa [BitVec.getLsbD, show j - bsfShift x k < window k by omega] using this.symm
    rwa [h.shifted, BitVec.getLsbD_ushiftRight, show bsfShift x k + (j - bsfShift x k) = j by omega] at hbit

theorem bsfShift_succ (x : Operand) (k : Nat) :
    bsfShift x (k + 1) =
      if (runStages .bsf k 0 (initialDatapath .bsf x)).w.toNat % 2 ^ window k = 0 then bsfShift x k + window k
      else bsfShift x k := by
  rw [bsfShift, ite_not]
  simp only [and_mask_eq_zero_iff]

theorem BsfWindow.stage {x : Operand} {k : Nat} {d : Datapath} (hk : k ≤ 7) (h : BsfWindow x k d)
    (hshift : bsfShift x (k + 1) =
      if d.w.toNat % 2 ^ window k = 0 then bsfShift x k + window k else bsfShift x k) :
    BsfWindow x (k + 1) (Machine.stage .bsf k d) := by
  have hwide := two_pow_eight_sub hk
  have hacc := h.accumulator
  have hnonzero := h.nonzero
  have hpos := window_pos k
  simp only [Machine.stage, stageBsf, ite_not, and_mask_eq_zero_iff]
  split
  case isTrue hlow =>
    rw [if_pos hlow] at hshift
    constructor
    · rw [hshift, BitVec.shiftRight_add, ← h.shifted]
    · rw [hshift]; exact h.clear_of_low_zero hlow
    · rw [hwide, Nat.two_mul, Nat.pow_add, Nat.mod_mul, hlow] at hnonzero
      rw [two_pow_eight_sub_succ, toNat_operand_shiftRight]
      intro hzero
      simp [hzero] at hnonzero
    · rw [two_pow_eight_sub_succ, hshift]
      simp only
      omega
  case isFalse hlow =>
    rw [if_neg hlow] at hshift
    constructor
    · rw [hshift]; exact h.shifted
    · rw [hshift]; exact h.clear
    · rw [two_pow_eight_sub_succ]; exact hlow
    · have hle : BitVec.ofNat 8 (window k) ≤ d.r := by
        rw [BitVec.le_def, toNat_ofNat_window]; omega
      rw [two_pow_eight_sub_succ, hshift, BitVec.toNat_sub_of_le hle, toNat_ofNat_window]
      omega

theorem bsfWindow_runStages {x : Operand} (hx : x ≠ 0) {k : Nat} (hk : k ≤ 8) :
    BsfWindow x k (runStages .bsf k 0 (initialDatapath .bsf x)) := by
  induction k with
  | zero => exact bsfWindow_initial hx
  | succ k ih =>
    rw [runStages_succ, Nat.zero_add]
    exact (ih (by omega)).stage (by omega) (bsfShift_succ x k)

theorem toNat_r_runStages_bsf {x : Operand} (hx : x ≠ 0) :
    (runStages .bsf 8 0 (initialDatapath .bsf x)).r.toNat = bsfShift x 8 :=
  Nat.succ_injective (bsfWindow_runStages hx (Nat.le_refl 8)).accumulator

/-- After the last stage one candidate bit is left, and it is set (42_bsf.md R144). -/
theorem isLsb_runStages {x : Operand} (hx : x ≠ 0) : IsLsb x (runStages .bsf 8 0 (initialDatapath .bsf x)).r.toNat := by
  have h := bsfWindow_runStages hx (Nat.le_refl 8)
  rw [toNat_r_runStages_bsf hx]
  refine ⟨?_, h.clear⟩
  have hodd : (x >>> bsfShift x 8).toNat % 2 = 1 := by
    have := h.nonzero
    rw [h.shifted] at this
    exact Nat.mod_two_ne_zero.mp this
  have hbit : (x >>> bsfShift x 8).getLsbD 0 = true := by
    simp only [BitVec.getLsbD, Nat.testBit_zero, hodd, decide_true]
  rwa [BitVec.getLsbD_ushiftRight] at hbit

/-! ### Both operations -/

theorem isScanIndex_runStages (op : Op) {x : Operand} (hx : x ≠ 0) :
    IsScanIndex op x (runStages op 8 0 (initialDatapath op x)).r.toNat := by
  cases op with
  | bsf => exact isLsb_runStages hx
  | bsr => exact isMsb_runStages hx

theorem zeroDetect_iff {x : Operand} : zeroDetect x = true ↔ x = 0 := beq_iff_eq

theorem zeroDetect_eq_false {x : Operand} (hx : x ≠ 0) : zeroDetect x = false := beq_eq_false_iff_ne.mpr hx

@[simp] theorem resultIndex_true (r : Index) : resultIndex true r = 0x00 := rfl

@[simp] theorem resultIndex_false (r : Index) : resultIndex false r = r := rfl

/-- The pair that a whole command selects is the one 10_state.md R48 gives for it. -/
theorem isResultOf_runStages (op : Op) (x : Operand) :
    IsResultOf op x (zeroDetect x)
      (resultIndex (zeroDetect x) (runStages op 8 0 (initialDatapath op x)).r) := by
  constructor
  · intro hx
    rw [zeroDetect_iff.mpr hx]
    exact ⟨rfl, rfl⟩
  · intro hx
    rw [zeroDetect_eq_false hx]
    exact ⟨rfl, isScanIndex_runStages op hx⟩

end Sys2Proof.Machine

/-! The rules of one step: an equation per kind of edge, and what a step reads of the ports and of the registers
(10_state.md R30, R40 to R46). -/

namespace Sys2Proof.Machine

/-! ### The ports and the command word -/

@[simp] theorem op_decodeWord_commandWord (p : Inputs) : (decodeWord p.commandWord).op = Op.ofBit p.op := by
  cases hop : p.op <;> simp [decodeWord, Inputs.commandWord, hop, Op.ofBit, Op.command, Instr.op]

@[simp] theorem operand_decodeWord_commandWord (p : Inputs) : (decodeWord p.commandWord).operand = p.x := by
  cases hop : p.op <;> simp [decodeWord, Inputs.commandWord, hop, Op.ofBit, Op.command, Instr.operand]

/-- Sampling uses up one entry of the list, or one draw where the list is empty. -/
theorem afterSample_eq (s : State) :
    s.afterSample = { s with inputs := s.inputs.tail, draws := if s.inputs = [] then s.draws + 1 else s.draws } := by
  apply State.eq_of_fields <;> simp

@[simp] theorem staged_afterSample (s : State) : s.afterSample.staged = s.staged := by
  simp [State.staged, State.datapath]

@[simp] theorem datapath_storeStages (d : Datapath) (s : State) : (storeStages d s).datapath = d := rfl

/-! ### One equation per kind of edge -/

theorem presentCommand_idle {s : State} (hb : s.booted = true) (hidle : s.busy = false) (op : Op) (x : Operand) :
    presentCommand op x s = .next (accept op x s) := by
  simp [presentCommand, hb, hidle]

theorem presentCommand_busy {s : State} (hb : s.booted = true) (hbusy : s.busy = true) (op : Op) (x : Operand) :
    presentCommand op x s = advance s := by
  simp [presentCommand, hb, hbusy]

theorem edgeWithoutCommand_busy {s : State} (hb : s.booted = true) (hbusy : s.busy = true) :
    edgeWithoutCommand s = advance s := by
  simp [edgeWithoutCommand, hb, hbusy]

theorem exec_idle {s : State} (hb : s.booted = true) (hidle : s.busy = false) (i : Instr) :
    exec i s = .next (accept i.op i.operand s) := by
  rw [exec_eq_present, presentCommand_idle hb hidle]

theorem exec_busy {s : State} (hb : s.booted = true) (hbusy : s.busy = true) (i : Instr) : exec i s = advance s := by
  rw [exec_eq_present, presentCommand_busy hb hbusy]

theorem advance_of_lt {s : State} (h : s.k.toNat + s.spc.stages < 8) :
    advance s = .next (storeStages s.staged s) :=
  if_pos h

theorem advance_of_eq {s : State} (h : s.k.toNat + s.spc.stages = 8) :
    advance s = .next (complete s.staged.r (storeStages s.staged s)) := by
  rw [advance, if_neg (by omega), if_pos h]

/-- Before the first reset edge the other ports do not count (70_reset_and_hazards.md R182). -/
theorem step_unbooted {s : State} (hb : s.booted = false) (hr : s.sampled.rst = false) :
    step s = .next (unspecifiedEdge s.afterSample) := by
  cases hs : s.sampled.start with
  | true => rw [step_command hr hs, exec_eq_present]; simp [presentCommand, hb]
  | false => rw [step_noCommand hr hs]; simp [edgeWithoutCommand, hb]

theorem step_accept {s : State} (hb : s.booted = true) (hidle : s.busy = false) (hr : s.sampled.rst = false)
    (hs : s.sampled.start = true) :
    step s = .next (accept (Op.ofBit s.sampled.op) s.sampled.x s.afterSample) := by
  rw [step_command hr hs, exec_idle (by simpa using hb) (by simpa using hidle)]
  simp

theorem step_hold {s : State} (hb : s.booted = true) (hidle : s.busy = false) (hr : s.sampled.rst = false)
    (hs : s.sampled.start = false) : step s = .next s.afterSample := by
  rw [step_noCommand hr hs]
  simp [edgeWithoutCommand, hb, hidle]

/-- A busy edge before the last stage (10_state.md R42). -/
theorem step_stages {s : State} (hb : s.booted = true) (hbusy : s.busy = true) (hr : s.sampled.rst = false)
    (h : s.k.toNat + s.spc.stages < 8) : step s = .next (storeStages s.staged s.afterSample) := by
  rw [step_busy hb hbusy hr, advance_of_lt (by simpa using h), staged_afterSample]

/-- The busy edge that runs stage 7 (10_state.md R43). -/
theorem step_completes {s : State} (hb : s.booted = true) (hbusy : s.busy = true) (hr : s.sampled.rst = false)
    (h : s.k.toNat + s.spc.stages = 8) :
    step s = .next (complete s.staged.r (storeStages s.staged s.afterSample)) := by
  rw [step_busy hb hbusy hr, advance_of_eq (by simpa using h), staged_afterSample]

/-- Settles O20: the step at an edge that presents a command, and what sampling does to the state. -/
theorem stepRunsThePresentedCommand : Obligations.StepRunsThePresentedCommand := by
  rintro s i hr hs rfl
  exact ⟨step_command hr hs, afterSample_eq s⟩

/-- Settles O23. -/
theorem resetStateHasTheGivenValues : Obligations.ResetStateHasTheGivenValues :=
  ⟨rfl, rfl, rfl, rfl, rfl⟩

/-! ### What a step reads of the ports -/

/-- At a reset edge the other ports do not count (10_state.md R40). -/
theorem step_ports_of_reset (s : State) {p q : Inputs} (rest : List Inputs) (hp : p.rst = true) (hq : q.rst = true) :
    step { s with inputs := p :: rest } = step { s with inputs := q :: rest } :=
  (step_reset (s := { s with inputs := p :: rest }) hp).trans
    (step_reset (s := { s with inputs := q :: rest }) hq).symm

/-- `start`, `op` and `X` do not count at the edge of a busy block (10_state.md R41, R45). -/
theorem step_ports_of_busy {s : State} (hb : s.booted = true) (hbusy : s.busy = true) {p q : Inputs}
    (rest : List Inputs) (hrst : p.rst = q.rst) :
    step { s with inputs := p :: rest } = step { s with inputs := q :: rest } := by
  cases hp : p.rst with
  | true => exact step_ports_of_reset s rest hp (hrst.symm.trans hp)
  | false =>
    exact (step_busy (s := { s with inputs := p :: rest }) hb hbusy hp).trans
      (step_busy (s := { s with inputs := q :: rest }) hb hbusy (hrst.symm.trans hp)).symm

/-- Settles O25: the accept equation, with the operation's start value read off its bit; the block is then busy. -/
theorem acceptLatchesTheCommand : Obligations.AcceptLatchesTheCommand := by
  intro s hb hidle hr hs
  refine ⟨_, step_accept hb hidle hr hs, ?_, fun p q rest hrst => ?_⟩
  · cases s.sampled.op <;> rfl
  · exact step_ports_of_busy (by simpa using hb) (accept_busy ..) rest hrst

/-- Settles O29: presented or not, the edge of a busy block is its advance. -/
theorem commandWhileBusyIsDropped : Obligations.CommandWhileBusyIsDropped := by
  intro i s hb hbusy
  rw [edgeWithoutCommand_busy hb hbusy]
  exact ⟨exec_busy hb hbusy i, exec_busy hb hbusy i⟩

/-- Settles O30, by the kind of the edge: a reset, before the first reset, of a busy block, and a hold. None of the four
reads `op` or `X`. -/
theorem operandPortsMatterOnlyAtAccept : Obligations.OperandPortsMatterOnlyAtAccept := by
  intro s p q rest hrst hstart hnotAccept
  cases hp : p.rst with
  | true => exact step_ports_of_reset s rest hp (hrst.symm.trans hp)
  | false =>
    have hq : q.rst = false := hrst.symm.trans hp
    rcases Bool.eq_false_or_eq_true s.booted with hb | hb
    · rcases Bool.eq_false_or_eq_true s.busy with hbusy | hidle
      · exact step_ports_of_busy hb hbusy rest hrst
      · have hps : p.start = false := Bool.eq_false_of_not_eq_true fun h => hnotAccept ⟨hp, hidle, h⟩
        exact (step_hold (s := { s with inputs := p :: rest }) hb hidle hp hps).trans
          (step_hold (s := { s with inputs := q :: rest }) hb hidle hq (hstart.symm.trans hps)).symm
    · exact (step_unbooted (s := { s with inputs := p :: rest }) hb hp).trans
        (step_unbooted (s := { s with inputs := q :: rest }) hb hq).symm

/-! ### What an edge leaves unchanged -/

/-- Settles O32: an accept and an advance are the two things that can happen to a presented command after a reset. -/
theorem presentedCommandFrame : Obligations.PresentedCommandFrame := by
  intro i s t hb h
  cases hbusy : s.busy with
  | false =>
    rw [exec_idle hb hbusy] at h
    cases h
    simp [hb]
  | true =>
    rw [exec_busy hb hbusy] at h
    obtain ⟨hspc, hinputs, hbooted, hdraws⟩ := advance_frame h
    refine ⟨hspc, hinputs, hdraws, hbooted.trans hb, by simp, fun _ => ?_⟩
    obtain ⟨-, rfl⟩ | ⟨hlast, rfl⟩ := advance_cases h
    · -- before the last stage
      simp [hbusy]
    · -- at the last stage, of which less is said
      exact ⟨rfl, rfl, fun hlt => by omega⟩

/-- At every edge but a reset and the one that runs stage 7, the result registers are kept. -/
theorem step_keeps_result {s t : State} (hb : s.booted = true) (h : step s = .next t) (hr : s.sampled.rst = false)
    (hnotLast : ¬ (s.busy = true ∧ s.k.toNat + s.spc.stages = 8)) : t.ridx = s.ridx ∧ t.rzero = s.rzero := by
  rcases step_cases h with ⟨hr', -⟩ | ⟨-, hb', -⟩ | ⟨-, -, -, -, rfl⟩ | ⟨-, -, hbusy, ha⟩ | ⟨-, -, -, -, rfl⟩
  · -- a reset edge
    simp [hr] at hr'
  · -- an edge before the first reset
    simp [hb] at hb'
  · -- an accept edge
    simp
  · -- an advance edge
    obtain ⟨-, rfl⟩ | ⟨hlast, -⟩ := advance_cases ha
    · simp
    · exact absurd ⟨hbusy, by simpa using hlast⟩ hnotLast
  · -- a hold edge
    simp

/-- Settles O33: by contraposition, from what every other edge keeps. -/
theorem resultChangesOnlyAtCompletionOrReset : Obligations.ResultChangesOnlyAtCompletionOrReset := by
  intro s t hb h hchanged
  by_contra hother
  obtain ⟨hr, hnotLast⟩ := not_or.mp hother
  obtain ⟨hridx, hrzero⟩ := step_keeps_result hb h (Bool.eq_false_of_not_eq_true hr) hnotLast
  exact hchanged.elim (· hridx) (· hrzero)

/-! ### Advance -/

/-- Consecutive stages as a fold over their numbers. -/
theorem foldl_stage_range (op : Op) (n k : Nat) (d : Datapath) :
    (List.range n).foldl (fun d j => stage op (k + j) d) d = runStages op n k d := by
  induction n with
  | zero => rfl
  | succ n ih => rw [List.range_succ, List.foldl_append, ih, runStages_succ]; rfl

/-- Settles O26: before the last stage the edge stores the stages alone; at it, it completes too. -/
theorem advanceRunsSpcStages : Obligations.AdvanceRunsSpcStages := by
  intro s hb hbusy ⟨_, hle⟩ hr
  have hk : (s.k + BitVec.ofNat 4 s.spc.stages).toNat = s.k.toNat + s.spc.stages := nextStage_toNat hle
  have hfold := foldl_stage_range s.opq s.spc.stages s.k.toNat s.datapath
  rcases Nat.lt_or_eq_of_le hle with hlt | heq
  · refine ⟨_, step_stages hb hbusy hr hlt, hfold.symm, ?_⟩
    have hnotLast : s.k.toNat + s.spc.stages ≠ 8 := by omega
    simp [hk, hbusy, hnotLast]
  · refine ⟨_, step_completes hb hbusy hr heq, hfold.symm, ?_⟩
    simp [hk, heq]

/-! ### Runs, an edge at a time -/

theorem runEdges_succ_of_step {s t : State} (h : step s = .next t) (n : Nat) : runEdges (n + 1) s = runEdges n t := by
  rw [runEdges, h]

theorem step_of_runEdges_succ {n : Nat} {s u : State} (h : runEdges (n + 1) s = .next u) :
    ∃ t, step s = .next t ∧ runEdges n t = .next u := by
  rw [runEdges] at h
  split at h
  case h_1 t ht => exact ⟨t, ht, h⟩
  case h_2 => cases h
  case h_3 => cases h

/-! ### Hold -/

/-- Settles O28, by induction on the number of edges: each uses up one entry of the list, or one draw. -/
theorem holdKeepsEveryRegister : Obligations.HoldKeepsEveryRegister := by
  intro n
  induction n with
  | zero => intro s _ _ _; exact ⟨s, rfl, by simp⟩
  | succ n ih =>
    intro s hb hidle ⟨⟨hr, hs⟩, hquiet⟩
    have hstep := step_hold hb hidle hr hs
    obtain ⟨t, hrun, ht⟩ := ih s.afterSample (by simpa using hb) (by simpa using hidle) (hquiet _ hstep)
    refine ⟨t, (runEdges_succ_of_step hstep n).trans hrun, ?_⟩
    rw [ht, afterSample_eq]
    cases s.inputs with
    | nil => simp [Nat.add_assoc, Nat.add_comm 1]
    | cons p rest => simp

/-! ### Idle states that differ in hidden registers -/

/-- An accept overwrites every register in which two such states differ. -/
theorem IdleAlike.accept_eq {a b : State} (h : IdleAlike a b) (op : Op) (x : Operand) :
    accept op x a = accept op x b := by
  obtain ⟨⟨ha, hb⟩, -, hspc, -, hridx, hrzero, hinputs, hdraws⟩ := h
  apply State.eq_of_fields <;> simp [ha, hb, hspc, hridx, hrzero, hinputs, hdraws]

theorem IdleAlike.resetEdge_eq {a b : State} (h : IdleAlike a b) : resetEdge a = resetEdge b := by
  obtain ⟨-, -, hspc, -, -, -, hinputs, hdraws⟩ := h
  apply State.eq_of_fields <;> simp [hspc, hinputs, hdraws]

theorem IdleAlike.afterSample {a b : State} (h : IdleAlike a b) : IdleAlike a.afterSample b.afterSample := by
  obtain ⟨hbooted, hidle, hspc, hvalid, hridx, hrzero, hinputs, hdraws⟩ := h
  constructor <;> simp [hbooted, hidle, hspc, hvalid, hridx, hrzero, hinputs, hdraws]

theorem IdleAlike.sampled_eq {a b : State} (h : IdleAlike a b) : a.sampled = b.sampled := by
  simp only [State.sampled, h.inputs, h.draws]

theorem IdleAlike.outputs_eq {a b : State} (h : IdleAlike a b) : a.outputs = b.outputs := by
  obtain ⟨-, ⟨ha, hb⟩, -, hvalid, hridx, hrzero, -, -⟩ := h
  simp only [State.outputs, State.ready, ha, hb, hvalid, hridx, hrzero]

/-- A reset or an accept makes two such states one; a hold keeps them such states. -/
theorem IdleAlike.step {a b : State} (h : IdleAlike a b) :
    Machine.step a = Machine.step b ∨
      ∃ a' b', Machine.step a = .next a' ∧ Machine.step b = .next b' ∧ IdleAlike a' b' := by
  have hsampled := h.sampled_eq
  obtain ⟨hba, hbb⟩ := h.booted
  obtain ⟨hia, hib⟩ := h.idle
  cases hr : a.sampled.rst with
  | true =>
    left
    rw [step_reset hr, step_reset (hsampled ▸ hr), h.afterSample.resetEdge_eq]
  | false =>
    cases hs : a.sampled.start with
    | true =>
      left
      rw [step_accept hba hia hr hs, step_accept hbb hib (hsampled ▸ hr) (hsampled ▸ hs), hsampled,
        h.afterSample.accept_eq]
    | false =>
      exact .inr ⟨_, _, step_hold hba hia hr hs, step_hold hbb hib (hsampled ▸ hr) (hsampled ▸ hs), h.afterSample⟩

/-- Settles O43: runs of two such states stay alike until a reset or an accept makes them one. -/
theorem hiddenRegistersReachNoOutput : Obligations.HiddenRegistersReachNoOutput := by
  constructor
  · intro i a b h
    rw [exec_idle h.booted.1 h.idle.1, exec_idle h.booted.2 h.idle.2, h.accept_eq]
  · intro n
    induction n with
    | zero => rintro a b _ h ⟨⟩; exact ⟨b, rfl, h.outputs_eq⟩
    | succ n ih =>
      intro a b u h hrun
      rcases h.step with hsame | ⟨a', b', ha, hb, h'⟩
      · obtain ⟨t, ha, ht⟩ := step_of_runEdges_succ hrun
        exact ⟨u, (runEdges_succ_of_step (hsame ▸ ha) n).trans ht, rfl⟩
      · rw [runEdges_succ_of_step ha] at hrun
        rw [runEdges_succ_of_step hb]
        exact ih a' b' u h' hrun

end Sys2Proof.Machine

/-! The invariants every step keeps, and a command from its accept to its completion (10_state.md R23 to R25, R41 to
R43, R48). -/

namespace Sys2Proof.Machine

/-! ### The schedule -/

/-- A legal `K` that is not the last one stays legal when it is advanced: `SPC` divides 8. -/
theorem Spc.next_schedule {c : Spc} {k : Nat} (hmod : k % c.stages = 0) (hlt : k + c.stages < 8) :
    (k + c.stages) % c.stages = 0 ∧ k + c.stages + c.stages ≤ 8 := by
  refine ⟨by rwa [Nat.add_mod_right], ?_⟩
  cases c with
  | one => simp only [Spc.stages_one] at *; omega
  | two => simp only [Spc.stages_two] at *; omega
  | four => simp only [Spc.stages_four] at *; omega
  | eight => simp only [Spc.stages_eight] at *; omega

theorem k_storeStages_toNat {s : State} (d : Datapath) (hlt : s.k.toNat + s.spc.stages < 8) :
    (storeStages d s).k.toNat = s.k.toNat + s.spc.stages :=
  nextStage_toNat (Nat.le_of_lt hlt)

theorem legalSchedule_storeStages {s : State} (d : Datapath) (h : LegalSchedule s)
    (hlt : s.k.toNat + s.spc.stages < 8) : LegalSchedule (storeStages d s) := by
  rw [LegalSchedule, k_storeStages_toNat d hlt, storeStages_spc]
  exact Spc.next_schedule h.1 hlt

theorem legalSchedule_accept (op : Op) (x : Operand) (s : State) : LegalSchedule (accept op x s) :=
  ⟨Nat.zero_mod _, by simpa using Spc.stages_le s.spc⟩

/-! ### Legal states -/

/-- Settles O45: the reset block is idle, and of a block before its first reset edge nothing is asked. -/
theorem resetAndPowerUpAreLegal : Obligations.ResetAndPowerUpAreLegal :=
  ⟨fun _ => ⟨nofun, nofun⟩, fun _ _ _ => nofun⟩

theorem legal_advance {s t : State} (hb : s.booted = true) (hbusy : s.busy = true) (hlegal : Legal s)
    (h : advance s = .next t) : Legal t := by
  obtain ⟨hmid, hfail⟩ := hlegal hb
  obtain ⟨hsched, hvalid⟩ := hmid hbusy
  intro _
  obtain ⟨hlt, rfl⟩ | ⟨-, rfl⟩ := advance_cases h
  · exact ⟨fun _ => ⟨legalSchedule_storeStages _ hsched hlt, hvalid⟩, hfail⟩
  · refine ⟨nofun, fun hz => ?_⟩
    have hzq : s.zq = true := hz
    simp [hzq]

theorem legal_afterSample {s : State} (h : Legal s) : Legal s.afterSample := by
  simpa [Legal, LegalSchedule] using h

/-- Settles O46, by the cases of a step: only an accept or an advance can leave the block busy, only a completion can
write a failure. -/
theorem everyStepKeepsLegal : Obligations.EveryStepKeepsLegal := by
  intro s t hlegal h
  have hsampled := legal_afterSample hlegal
  rcases step_cases h with ⟨-, rfl⟩ | ⟨-, hb, rfl⟩ | ⟨-, hb, -, -, rfl⟩ | ⟨-, hb, hbusy, ha⟩ | ⟨-, -, -, -, rfl⟩
  · -- a reset edge
    exact fun _ => ⟨nofun, nofun⟩
  · -- an edge before the first reset
    intro hb'
    simp [hb] at hb'
  · -- an accept edge
    obtain ⟨-, hfail⟩ := hsampled (by simpa using hb)
    exact fun _ => ⟨fun _ => ⟨legalSchedule_accept .., rfl⟩, hfail⟩
  · -- an advance edge
    exact legal_advance (by simpa using hb) (by simpa using hbusy) hsampled ha
  · -- a hold edge
    exact hsampled

/-! ### A command in flight -/

theorem inFlight_accept (op : Op) (x : Operand) {s : State} (hb : s.booted = true) : InFlight op x (accept op x s) where
  booted := hb
  busy := rfl
  notValid := rfl
  schedule := legalSchedule_accept op x s
  opLatched := rfl
  zeroLatched := rfl
  staged := rfl

theorem InFlight.afterSample {op : Op} {x : Operand} {s : State} (h : InFlight op x s) :
    InFlight op x s.afterSample := by
  obtain ⟨hb, hbusy, hvalid, hsched, hop, hzq, hdata⟩ := h
  constructor <;> simpa [LegalSchedule, State.datapath]

/-- The stages of one busy edge, counted from the accept (40_encoder.md R105). -/
theorem InFlight.staged_eq {op : Op} {x : Operand} {s : State} (h : InFlight op x s) :
    s.staged = runStages op (s.k.toNat + s.spc.stages) 0 (initialDatapath op x) := by
  rw [State.staged, h.staged, h.opLatched, runStages_add, Nat.zero_add]

theorem InFlight.storeStages {op : Op} {x : Operand} {s : State} (h : InFlight op x s)
    (hlt : s.k.toNat + s.spc.stages < 8) : InFlight op x (storeStages s.staged s) where
  booted := h.booted
  busy := h.busy
  notValid := h.notValid
  schedule := legalSchedule_storeStages _ h.schedule hlt
  opLatched := h.opLatched
  zeroLatched := h.zeroLatched
  staged := by rw [datapath_storeStages, k_storeStages_toNat _ hlt, h.staged_eq]

/-- Settles O48, by the cases of a step: an accept starts the command in flight, an advance before the last stage keeps
it, and after any other edge the block is idle. -/
theorem everyBusyStateIsMidCommand : Obligations.EveryBusyStateIsMidCommand := by
  intro s t hmid h hb' hbusy'
  rcases step_cases h with ⟨-, rfl⟩ | ⟨-, hb, rfl⟩ | ⟨-, hb, -, -, rfl⟩ | ⟨-, hb, hbusy, ha⟩ | ⟨-, -, hidle, -, rfl⟩
  · -- a reset edge
    cases hbusy'
  · -- an edge before the first reset
    simp [hb] at hb'
  · -- an accept edge
    exact ⟨_, inFlight_accept _ _ (by simpa using hb)⟩
  · -- an advance edge
    obtain ⟨x, hx⟩ := hmid hb hbusy
    obtain ⟨hlt, rfl⟩ | ⟨-, rfl⟩ := advance_cases ha
    · rw [storeStages_opq, afterSample_opq]
      exact ⟨x, hx.afterSample.storeStages hlt⟩
    · cases hbusy'
  · -- a hold edge
    simp [hidle] at hbusy'

/-- The block right after the completion of `(op, X)` (10_state.md R43): idle, with the result of all eight stages. -/
structure Completed (op : Op) (x : Operand) (s : State) : Prop where
  booted : s.booted = true
  idle : s.busy = false
  valid : s.valid = true
  opLatched : s.opq = op
  accumulator : s.r = (runStages op 8 0 (initialDatapath op x)).r
  zero : s.rzero = zeroDetect x
  idx : s.ridx = resultIndex (zeroDetect x) s.r

theorem Completed.isResultOf {op : Op} {x : Operand} {s : State} (h : Completed op x s) :
    IsResultOf op x s.rzero s.ridx := by
  rw [h.idx, h.accumulator, h.zero]
  exact isResultOf_runStages op x

theorem Completed.result_eq {op : Op} {x : Operand} {s : State} (h : Completed op x s) :
    s.result = some (scan op x) := by
  rw [State.result, if_pos h.valid, h.idx, h.accumulator, h.zero, scan]

theorem InFlight.complete {op : Op} {x : Operand} {s : State} (h : InFlight op x s)
    (hlast : s.k.toNat + s.spc.stages = 8) : Completed op x (complete s.staged.r (Machine.storeStages s.staged s)) where
  booted := h.booted
  idle := rfl
  valid := rfl
  opLatched := h.opLatched
  accumulator := by rw [complete_r, storeStages_r, h.staged_eq, hlast]
  zero := h.zeroLatched
  idx := by rw [complete_ridx, complete_r, storeStages_r, storeStages_zq, h.zeroLatched]

/-- The edge of a command in flight before its last stage (10_state.md R42). -/
theorem InFlight.step_stages {op : Op} {x : Operand} {s : State} (h : InFlight op x s) (hr : s.sampled.rst = false)
    (hlt : s.k.toNat + s.spc.stages < 8) :
    ∃ t, step s = .next t ∧ InFlight op x t ∧ t.k.toNat = s.k.toNat + s.spc.stages ∧ t.spc = s.spc ∧
      t.ridx = s.ridx ∧ t.rzero = s.rzero := by
  have hsampled : s.afterSample.k.toNat + s.afterSample.spc.stages < 8 := by simpa using hlt
  refine ⟨_, (step_busy h.booted h.busy hr).trans (advance_of_lt hsampled), h.afterSample.storeStages hsampled, ?_⟩
  rw [k_storeStages_toNat _ hsampled]
  simp

/-- The completing edge of a command in flight (10_state.md R43). -/
theorem InFlight.step_completes {op : Op} {x : Operand} {s : State} (h : InFlight op x s) (hr : s.sampled.rst = false)
    (hlast : s.k.toNat + s.spc.stages = 8) : ∃ t, step s = .next t ∧ Completed op x t ∧ t.spc = s.spc := by
  have hsampled : s.afterSample.k.toNat + s.afterSample.spc.stages = 8 := by simpa using hlast
  exact ⟨_, (step_busy h.booted h.busy hr).trans (advance_of_eq hsampled), h.afterSample.complete hsampled, by simp⟩

/-- Settles O40: one of the two edges of a command in flight, as its `K` says. -/
theorem completionBelongsToTheCommandInFlight : Obligations.CompletionBelongsToTheCommandInFlight := by
  intro op x s h hr
  rcases Nat.lt_or_eq_of_le h.schedule.2 with hlt | hlast
  · obtain ⟨t, hstep, ht, hk, -, hridx, hrzero⟩ := h.step_stages hr hlt
    exact ⟨t, hstep, fun _ => ⟨ht, hk, hridx, hrzero⟩, fun hlast => by omega⟩
  · obtain ⟨t, hstep, ht, -⟩ := h.step_completes hr hlast
    exact ⟨t, hstep, fun hlt => by omega, fun _ => ⟨ht.idle, ht.valid, ht.isResultOf⟩⟩

/-! ### Whole commands -/

/-- While stages are left to run, a command in flight stays in flight. -/
theorem InFlight.runEdges {op : Op} {x : Operand} {n : Nat} {s : State} (h : InFlight op x s) (hr : NoResetFor n s)
    (hlt : s.k.toNat + n * s.spc.stages < 8) : ∃ t, runEdges n s = .next t ∧ InFlight op x t := by
  induction n generalizing s with
  | zero => exact ⟨s, rfl, h⟩
  | succ n ih =>
    rw [Nat.succ_mul] at hlt
    obtain ⟨t, hstep, ht, hk, hspc, -⟩ := h.step_stages hr.1 (by omega)
    obtain ⟨u, hrun, hu⟩ := ih ht (hr.2 t hstep) (by rw [hk, hspc]; omega)
    exact ⟨u, (runEdges_succ_of_step hstep n).trans hrun, hu⟩

/-- A command in flight completes at the edge that runs its last stage. -/
theorem InFlight.runEdges_completes {op : Op} {x : Operand} {n : Nat} {s : State} (h : InFlight op x s)
    (hr : NoResetFor n s) (hlast : s.k.toNat + n * s.spc.stages = 8) :
    ∃ u, Machine.runEdges n s = .next u ∧ Completed op x u ∧ u.spc = s.spc := by
  have hpos := Spc.stages_pos s.spc
  have hle := h.schedule.2
  induction n generalizing s with
  | zero => omega
  | succ n ih =>
    rw [Nat.succ_mul] at hlast
    rcases Nat.lt_or_eq_of_le hle with hlt | heq
    · -- stages are left for the edges that follow
      obtain ⟨t, hstep, ht, hk, hspc, -⟩ := h.step_stages hr.1 hlt
      obtain ⟨u, hrun, hu, hspc'⟩ := ih ht (hr.2 t hstep) (by rw [hk, hspc]; omega) (hspc ▸ hpos) ht.schedule.2
      exact ⟨u, (runEdges_succ_of_step hstep n).trans hrun, hu, hspc'.trans hspc⟩
    · -- this is the completing edge, and so the last of the run
      obtain ⟨u, hstep, hu, hspc⟩ := h.step_completes hr.1 heq
      obtain rfl : n = 0 := by
        rcases Nat.mul_eq_zero.mp (show n * s.spc.stages = 0 by omega) with hn | hc
        · exact hn
        · omega
      exact ⟨u, (runEdges_succ_of_step hstep 0).trans rfl, hu, hspc⟩

/-- An accepted command stays in flight for fewer than `L` edges (10_state.md R48). -/
theorem runEdges_accept_inFlight (op : Op) (x : Operand) {s : State} (hb : s.booted = true) {j : Nat}
    (hj : j < s.spc.latency) (hr : NoResetFor j (accept op x s)) :
    ∃ t, runEdges j (accept op x s) = .next t ∧ InFlight op x t := by
  have hmul := Spc.latency_mul_stages s.spc
  have hlt : j * s.spc.stages < s.spc.latency * s.spc.stages := Nat.mul_lt_mul_of_pos_right hj (Spc.stages_pos s.spc)
  exact (inFlight_accept op x hb).runEdges hr (by simpa [hmul] using hlt)

/-- An accepted command completes after `L` edges (10_state.md R43, R48). -/
theorem runEdges_accept_completes (op : Op) (x : Operand) {s : State} (hb : s.booted = true)
    (hr : NoResetFor s.spc.latency (accept op x s)) :
    ∃ u, runEdges s.spc.latency (accept op x s) = .next u ∧ Completed op x u ∧ u.spc = s.spc :=
  (inFlight_accept op x hb).runEdges_completes hr (by simpa using Spc.latency_mul_stages s.spc)

/-- Settles O37: the command is accepted and completes with all eight stages run, which is what `scan` computes. -/
theorem clockedBlockRefinesScan : Obligations.ClockedBlockRefinesScan := by
  intro i s hb hidle
  refine ⟨_, exec_idle hb hidle i, fun hr => ?_⟩
  obtain ⟨u, hrun, hu, -⟩ := runEdges_accept_completes i.op i.operand hb hr
  exact ⟨u, hrun, hu.result_eq⟩

theorem portsFor_mono {p : Inputs → Prop} {m n : Nat} (hmn : m ≤ n) {s : State} (h : PortsFor p n s) :
    PortsFor p m s := by
  induction n generalizing m s with
  | zero => rwa [Nat.le_zero.mp hmn]
  | succ n ih =>
    cases m with
    | zero => trivial
    | succ m => exact ⟨h.1, fun t ht => ih (Nat.le_of_succ_le_succ hmn) (h.2 t ht)⟩

/-- The result registers are kept along a run with no reset and no completing edge. -/
theorem runEdges_keeps_result {n : Nat} {u v : State} (hb : u.booted = true) (hr : NoResetFor n u)
    (hrun : runEdges n u = .next v)
    (hnotLast : ∀ m < n, ∀ a, runEdges m u = .next a → ¬ (a.busy = true ∧ a.k.toNat + a.spc.stages = 8)) :
    v.rzero = u.rzero ∧ v.ridx = u.ridx := by
  induction n generalizing u with
  | zero => cases hrun; exact ⟨rfl, rfl⟩
  | succ n ih =>
    obtain ⟨t, hstep, ht⟩ := step_of_runEdges_succ hrun
    obtain ⟨hridx, hrzero⟩ := step_keeps_result hb hstep hr.1 (hnotLast 0 (Nat.succ_pos n) u rfl)
    obtain ⟨-, -, hbooted⟩ := stepFrame u t hstep
    obtain ⟨hrzero', hridx'⟩ := ih (hbooted hb) (hr.2 t hstep) ht fun m hm a ha =>
      hnotLast (m + 1) (Nat.succ_lt_succ hm) a ((runEdges_succ_of_step hstep m).trans ha)
    exact ⟨hrzero'.trans hrzero, hridx'.trans hridx⟩

/-- The outputs of an idle block are kept along a run with neither a reset nor a start. -/
theorem runEdges_quiet_outputs {n : Nat} {u v : State} (hb : u.booted = true) (hidle : u.busy = false)
    (hquiet : QuietFor n u) (hrun : runEdges n u = .next v) : v.outputs = u.outputs := by
  obtain ⟨t, ht, rfl⟩ := holdKeepsEveryRegister n u hb hidle hquiet
  cases ht.symm.trans hrun
  rfl

/-- Settles O36: the accept is one edge, and the run that follows is that of a command in flight. -/
theorem acceptedCommandCompletesAfterLEdges : Obligations.AcceptedCommandCompletesAfterLEdges := by
  rintro s i hb hidle hr hs hi ⟨-, hrest⟩
  have hstep : step s = .next (accept i.op i.operand s.afterSample) := by
    rw [step_command hr hs, hi, exec_idle (by simpa using hb) (by simpa using hidle)]
  have hb' : s.afterSample.booted = true := by simpa using hb
  have hnoReset := hrest _ hstep
  rw [← afterSample_spc] at hnoReset ⊢
  constructor
  · obtain ⟨u, hrun, hu, -⟩ := runEdges_accept_completes i.op i.operand hb' hnoReset
    refine ⟨u, (runEdges_succ_of_step hstep _).trans hrun, hu.valid, by simp [State.ready, hu.idle],
      hu.isResultOf, ?_, ?_⟩
    · exact fun n v hquiet hv => runEdges_quiet_outputs hu.booted hu.idle hquiet hv
    · exact fun n v hr hv hnotLast => runEdges_keeps_result hu.booted hr hv hnotLast
  · intro j hj
    obtain ⟨v, hrun, hv⟩ := runEdges_accept_inFlight i.op i.operand hb' hj (portsFor_mono (Nat.le_of_lt hj) hnoReset)
    exact ⟨v, (runEdges_succ_of_step hstep j).trans hrun, by simp [State.ready, hv.busy], hv.notValid⟩

end Sys2Proof.Machine

/-! What a command's result depends on (20_memory.md R60): the outputs of a completed command are a function of the
command alone. -/

namespace Sys2Proof.Machine

/-- The output ports after a completion, as a function of the command alone (10_state.md R26, 40_encoder.md R108). -/
theorem Completed.outputs_eq {op : Op} {x : Operand} {s : State} (h : Completed op x s) :
    s.outputs = { ready := true, valid := true, zero := zeroDetect x
                  idx := resultIndex (zeroDetect x) (runStages op 8 0 (initialDatapath op x)).r } := by
  rw [State.outputs, State.ready, h.idle, h.valid, h.idx, h.accumulator, h.zero, Bool.not_false]

/-- Settles O39: each block completes the command, and the outputs of a completed command name neither the block's
history, nor its `SPC`, nor its ports. -/
theorem resultDependsOnTheCommandAlone : Obligations.ResultDependsOnTheCommandAlone := by
  intro i a b ha hb haIdle hbIdle
  refine ⟨_, _, exec_idle ha haIdle i, exec_idle hb hbIdle i, fun hra hrb => ?_⟩
  obtain ⟨u, hrunA, hu, -⟩ := runEdges_accept_completes i.op i.operand ha hra
  obtain ⟨v, hrunB, hv, -⟩ := runEdges_accept_completes i.op i.operand hb hrb
  exact ⟨u, v, hrunA, hrunB, hu.outputs_eq.trans hv.outputs_eq.symm⟩

end Sys2Proof.Machine

/-! The command word: the encoder and the decoder are inverse to each other, on words and on numbers (30_encoding.md R70
to R77), and a word on the ports is run by the next step (R183). -/

namespace Sys2Proof

open Sys2Proof.Machine

/-! ### The fields of a command word -/

@[simp] theorem Op.ofBit_bit (op : Op) : Op.ofBit op.bit = op := by cases op <;> rfl

@[simp] theorem Op.bit_ofBit (b : Bool) : (Op.ofBit b).bit = b := by cases b <;> rfl

@[simp] theorem Op.op_command (op : Op) (x : Operand) : (op.command x).op = op := by cases op <;> rfl

@[simp] theorem Op.operand_command (op : Op) (x : Operand) : (op.command x).operand = x := by cases op <;> rfl

theorem op_decodeWord (cmd : CmdWord) : (decodeWord cmd).op = Op.ofBit (cmdOp cmd) := Op.op_command ..

theorem operand_decodeWord (cmd : CmdWord) : (decodeWord cmd).operand = cmdX cmd := Op.operand_command ..

theorem getLsbD_cmdX {i : Nat} (hi : i < 256) (cmd : CmdWord) : (cmdX cmd).getLsbD i = cmd.getLsbD i := by
  simp [cmdX, hi]

/-- A word is its bit 256 above its bits 255..0 (30_encoding.md R70). -/
theorem packCommand_fields (cmd : CmdWord) : packCommand (cmdOp cmd) (cmdX cmd) = cmd := by
  apply BitVec.eq_of_getLsbD_eq
  intro i hi
  rw [packCommand, BitVec.getLsbD_append]
  split
  case isTrue hlow => exact getLsbD_cmdX hlow cmd
  case isFalse hhigh =>
    obtain rfl : i = 256 := by omega
    simp [cmdOp]

/-! ### Decoding and encoding words -/

@[simp] theorem decodeWord_encode (i : Instr) : decodeWord (encode i) = i := by
  rw [decodeWord, encode, cmdOp_packCommand, cmdX_packCommand, Op.ofBit_bit, command_op_operand]

@[simp] theorem encode_decodeWord (cmd : CmdWord) : encode (decodeWord cmd) = cmd := by
  rw [encode, op_decodeWord, operand_decodeWord, Op.bit_ofBit, packCommand_fields]

/-- Settles O2: the two round trips. -/
theorem everyCommandWordIsOneCommand : Obligations.EveryCommandWordIsOneCommand := by
  refine fun cmd => ⟨encode_decodeWord cmd, ?_⟩
  rintro i rfl
  exact (decodeWord_encode i).symm

/-! ### Decoding numbers -/

theorem decode_of_ge {bits : Nat} (h : commandWords ≤ bits) : decode bits = .error .longerThanCommand :=
  dif_neg (Nat.not_lt.mpr h)

@[simp] theorem decode_toNat (cmd : CmdWord) : decode cmd.toNat = .ok (decodeWord cmd) := by
  have hlt : cmd.toNat < commandWords := by simpa only [commandWords_eq] using cmd.isLt
  rw [decode, dif_pos hlt, BitVec.ofNatLT_toNat]

theorem decode_of_encode {i : Instr} {bits : Nat} (h : (encode i).toNat = bits) : decode bits = .ok i := by
  rw [← h, decode_toNat, decodeWord_encode]

/-- Settles O1: a command word's fields are the command's own, and a word is a number below `2^257`. -/
theorem decodeOfEncodeIsIdentity : Obligations.DecodeOfEncodeIsIdentity :=
  fun i _ => ⟨decodeWord_encode i, decode_of_encode rfl⟩

/-- Settles O4: the four words are the encodings of their commands, and `2^257` has a bit above `CMD[256]`. -/
theorem writtenOutWordsDecode : Obligations.WrittenOutWordsDecode :=
  ⟨decode_of_encode (by decide +kernel), decode_of_encode (by decide +kernel), decode_of_encode (by decide +kernel),
    decode_of_encode (by decide +kernel), decode_of_ge (by decide +kernel)⟩

/-! ### The opcode map -/

theorem decodeWord_eq_bsf_iff {cmd : CmdWord} : (∃ x, decodeWord cmd = .bsf x) ↔ cmdOp cmd = false := by
  cases hop : cmdOp cmd <;> simp [decodeWord, hop, Op.ofBit, Op.command]

theorem decodeWord_eq_bsr_iff {cmd : CmdWord} : (∃ x, decodeWord cmd = .bsr x) ↔ cmdOp cmd = true := by
  cases hop : cmdOp cmd <;> simp [decodeWord, hop, Op.ofBit, Op.command]

/-- The mask of 30_encoding.md R75 leaves the field `op` alone. -/
theorem and_opMask (cmd : CmdWord) :
    cmd &&& BitVec.twoPow 257 256 = if cmdOp cmd = true then BitVec.twoPow 257 256 else 0 :=
  BitVec.and_twoPow cmd 256

theorem opMask_eq :
    0x10000000000000000000000000000000000000000000000000000000000000000#257 = BitVec.twoPow 257 256 := by
  decide +kernel

theorem zero_ne_opMask : 0#257 ≠ BitVec.twoPow 257 256 := by decide +kernel

/-- Settles O3: both mask tests are tests of the field `op`. -/
theorem opcodeMapByMatchAndMask : Obligations.OpcodeMapByMatchAndMask := by
  intro cmd
  rw [decodeWord_eq_bsf_iff, decodeWord_eq_bsr_iff, opMask_eq, and_opMask, operand_decodeWord]
  refine ⟨?_, ?_, fun i hi => getLsbD_cmdX hi cmd⟩
  · cases cmdOp cmd <;> simp
  · cases cmdOp cmd <;> simp [zero_ne_opMask]

/-! ### A word on the ports -/

theorem decodeTableWord_eq_some_iff {nbits w : Nat} {i : Instr} :
    decodeTableWord nbits w = some i ↔ decode (tableBits nbits w) = .ok i := by
  cases hdecode : decode (tableBits nbits w) <;> simp [decodeTableWord, hdecode]

theorem withFetchWord_of_decodeTableWord {nbits w : Nat} {i : Instr} (h : decodeTableWord nbits w = some i)
    (s : State) : s.withFetchWord nbits w = { s with inputs := Inputs.presenting i :: s.inputs.tail } := by
  rw [State.withFetchWord, placeCommand, decodeTableWord_eq_some_iff.mp h]

theorem commandWord_presenting (i : Instr) : (Inputs.presenting i).commandWord = encode i := rfl

theorem step_presenting (i : Instr) (rest : List Inputs) (s : State) :
    step { s with inputs := Inputs.presenting i :: rest } = exec i { s with inputs := rest } := by
  have hstep : step { s with inputs := Inputs.presenting i :: rest } =
      exec (decodeWord (Inputs.presenting i).commandWord) { s with inputs := rest } := step_command rfl rfl
  rw [hstep, commandWord_presenting, decodeWord_encode]

/-- Settles O21: the word's instruction stands on the ports, encoded, and the step decodes it again. -/
theorem placedWordRunsAtTheNextStep : Obligations.PlacedWordRunsAtTheNextStep := by
  intro s nbits w i h
  rw [withFetchWord_of_decodeTableWord h, step_presenting]

end Sys2Proof

/-! What a legal block does and presents (30_encoding.md R73, R76; 40_encoder.md R110; 60_exceptions.md R160, R163). -/

namespace Sys2Proof.Machine

/-! ### Legal runs -/

/-- The one edge that can stop is an advance, and a legal `K` keeps it within stages 0 to 7. -/
theorem step_next_of_legal {s : State} (hlegal : Legal s) : ∃ t, step s = .next t := by
  cases hr : s.sampled.rst with
  | true => exact ⟨_, step_reset hr⟩
  | false =>
    cases hb : s.booted with
    | false => exact ⟨_, step_unbooted hb hr⟩
    | true =>
      cases hbusy : s.busy with
      | true =>
        obtain ⟨⟨-, hle⟩, -⟩ := (hlegal hb).1 hbusy
        rw [step_busy hb hbusy hr]
        exact advance_next (by simpa using hle)
      | false =>
        cases hs : s.sampled.start with
        | true => exact ⟨_, step_accept hb hbusy hr hs⟩
        | false => exact ⟨_, step_hold hb hbusy hr hs⟩

/-- Settles O47, by induction on the number of edges: a legal state has a next one, and that is legal. -/
theorem legalRunsNeverStop : Obligations.LegalRunsNeverStop := by
  intro n
  induction n with
  | zero => exact fun s _ => ⟨s, rfl⟩
  | succ n ih =>
    intro s hlegal
    obtain ⟨t, hstep⟩ := step_next_of_legal hlegal
    obtain ⟨u, hrun⟩ := ih t (everyStepKeepsLegal s t hlegal hstep)
    exact ⟨u, (runEdges_succ_of_step hstep n).trans hrun⟩

/-! ### The response word -/

theorem getLsbD_responseWord (zero : Bool) (idx : Index) : (responseWord zero idx).getLsbD 8 = zero := by
  rw [responseWord, BitVec.getLsbD_append, if_neg (Nat.lt_irrefl 8)]
  simp

theorem toNat_responseWord (zero : Bool) (idx : Index) :
    (responseWord zero idx).toNat = 256 * zero.toNat + idx.toNat := by
  rw [responseWord, BitVec.toNat_append, BitVec.toNat_ofBool, ← Nat.shiftLeft_add_eq_or_of_lt idx.isLt,
    Nat.shiftLeft_eq, Nat.mul_comm]

theorem toNat_responseWord_mod (zero : Bool) (idx : Index) : (responseWord zero idx).toNat % 256 = idx.toNat := by
  rw [toNat_responseWord, Nat.mul_add_mod, Nat.mod_eq_of_lt idx.isLt]

theorem response_of_valid {s : State} (h : s.valid = true) : s.response = some (responseWord s.rzero s.ridx) :=
  if_pos h

theorem result_of_valid {s : State} (h : s.valid = true) : s.result = some (ScanResult.ofFlags s.rzero s.ridx) :=
  if_pos h

theorem response_of_not_valid {s : State} (h : s.valid = false) : s.response = none := by simp [State.response, h]

theorem result_of_not_valid {s : State} (h : s.valid = false) : s.result = none := by simp [State.result, h]

/-- Settles O49: the response word is the two result registers side by side, and a legal failure has the index 0. -/
theorem responseWordPresentsOneOutcome : Obligations.ResponseWordPresentsOneOutcome := by
  intro s hlegal hb
  obtain ⟨-, hfail⟩ := hlegal hb
  refine ⟨fun hvalid => ?_, fun hvalid => ⟨response_of_not_valid hvalid, result_of_not_valid hvalid⟩⟩
  refine ⟨_, response_of_valid hvalid, getLsbD_responseWord .., toNat_responseWord_mod .., fun hz => ?_, fun hz => ?_⟩
  · rw [result_of_valid hvalid, hfail hz, hz]
    exact ⟨rfl, rfl⟩
  · rw [result_of_valid hvalid, toNat_responseWord, hz]
    exact ⟨Nat.zero_add _, rfl⟩

end Sys2Proof.Machine

/-! The assembler's reader (30_encoding.md R78): what it answers on digits, on a literal, and on a line, each tied to the
grammar that Safety.lean gives without the reader. -/

namespace Sys2Proof.Machine

/-! ### Lists of digits -/

theorem mapM_eq_some_iff_forall₂ {α β : Type} {f : α → Option β} {xs : List α} {ys : List β} :
    xs.mapM f = some ys ↔ List.Forall₂ (fun x y => f x = some y) xs ys := by
  induction xs generalizing ys with
  | nil => simp [eq_comm]
  | cons x xs ih => cases ys <;> simp [List.mapM_cons, Option.bind_eq_some_iff, ih]

/-- Two lists that are pointwise the two images of one element are the images of one list. -/
theorem forall₂_images_iff {α β γ : Type} {f : γ → α} {g : γ → β} {xs : List α} {ys : List β} :
    List.Forall₂ (fun x y => ∃ z, x = f z ∧ y = g z) xs ys ↔ ∃ zs : List γ, xs = zs.map f ∧ ys = zs.map g := by
  constructor
  · intro h
    induction h with
    | nil => exact ⟨[], rfl, rfl⟩
    | cons hz _ ih =>
      obtain ⟨z, rfl, rfl⟩ := hz
      obtain ⟨zs, rfl, rfl⟩ := ih
      exact ⟨z :: zs, rfl, rfl⟩
  · rintro ⟨zs, rfl, rfl⟩
    rw [List.forall₂_map_left_iff, List.forall₂_map_right_iff, List.forall₂_same]
    exact fun z _ => ⟨z, rfl, rfl⟩

/-- Reading digits the most significant first is the library's reading of the reversed list. -/
theorem foldl_digits_eq_ofDigits (b : Nat) (ds : List Nat) :
    ds.foldl (fun acc d => b * acc + d) 0 = Nat.ofDigits b ds.reverse := by
  rw [Nat.ofDigits_eq_foldr, List.foldr_reverse]
  simp [Nat.add_comm]

/-! ### Decimal numbers -/

theorem char_le_iff {c d : Char} : c ≤ d ↔ c.toNat ≤ d.toNat := Iff.rfl

theorem decimalDigit_eq_some_iff {c : Char} {k : Nat} :
    decimalDigit c = some k ↔ ∃ d : Fin 10, c = Nat.digitChar d.val ∧ k = d.val := by
  constructor
  · intro h
    simp only [decimalDigit, char_le_iff, Option.ite_none_right_eq_some, Option.some.injEq] at h
    obtain ⟨⟨hlo, hhi⟩, rfl⟩ := h
    have hlo : 48 ≤ c.toNat := hlo
    have hhi : c.toNat ≤ 57 := hhi
    have hk : c.toNat - 48 < 10 := by omega
    refine ⟨⟨c.toNat - 48, hk⟩, ?_, rfl⟩
    have hchar : ∀ d < 10, Char.ofNat (48 + d) = Nat.digitChar d := by decide
    have h := hchar (c.toNat - 48) hk
    rwa [Nat.add_sub_cancel' hlo, Char.ofNat_toNat] at h
  · rintro ⟨d, rfl, rfl⟩
    revert d
    decide

theorem parseDecimal_eq_some_iff {cs : List Char} {n : Nat} : parseDecimal cs = some n ↔ DecimalText cs n := by
  simp only [parseDecimal, DecimalText, List.isEmpty_iff, Option.ite_none_left_eq_some, Option.map_eq_some_iff,
    mapM_eq_some_iff_forall₂, decimalDigit_eq_some_iff, forall₂_images_iff, foldl_digits_eq_ofDigits]
  constructor
  · rintro ⟨hne, -, ⟨ds, rfl, rfl⟩, rfl⟩
    exact ⟨ds, by simpa using hne, rfl, rfl⟩
  · rintro ⟨ds, hne, rfl, rfl⟩
    exact ⟨by simpa using hne, _, ⟨ds, rfl, rfl⟩, rfl⟩

theorem DecimalText.exists_digit {cs : List Char} {n : Nat} (h : DecimalText cs n) {c : Char} (hc : c ∈ cs) :
    ∃ d : Fin 10, c = Nat.digitChar d.val := by
  obtain ⟨ds, -, rfl, -⟩ := h
  obtain ⟨d, -, rfl⟩ := List.mem_map.mp hc
  exact ⟨d, rfl⟩

theorem decimalText_digit (d : Fin 10) : DecimalText [Nat.digitChar d.val] d.val :=
  ⟨[d], List.cons_ne_nil _ _, rfl, (Nat.ofDigits_singleton ..).symm⟩

/-- One digit more at the end of a decimal number. -/
theorem DecimalText.snoc {cs : List Char} {n : Nat} (h : DecimalText cs n) (d : Fin 10) :
    DecimalText (cs ++ [Nat.digitChar d.val]) (10 * n + d.val) := by
  obtain ⟨ds, -, rfl, rfl⟩ := h
  exact ⟨ds ++ [d], by simp, by simp, by simp [Nat.ofDigits_cons, Nat.add_comm]⟩

theorem decimalText_toDigits (n : Nat) : DecimalText (Nat.toDigits 10 n) n := by
  induction n using Nat.strongRecOn with
  | ind n ih =>
    rcases Nat.lt_or_ge n 10 with hlt | hge
    · rw [Nat.toDigits_of_lt_base hlt]
      exact decimalText_digit ⟨n, hlt⟩
    · rw [Nat.toDigits_of_base_le (by decide) hge]
      have h := (ih (n / 10) (by omega)).snoc ⟨n % 10, Nat.mod_lt n (by decide)⟩
      rwa [Nat.div_add_mod] at h

/-- Settles O51: an index is written with its decimal digits. -/
theorem resultsAreWrittenAsTheSyntaxSays : Obligations.ResultsAreWrittenAsTheSyntaxSays :=
  ⟨fun i => ⟨_, decimalText_toDigits i.toNat, rfl⟩, rfl⟩

/-! ### Hex numbers -/

/-- The two characters that write a hex digit (assumption log 13). -/
abbrev IsHexChar (c : Char) (d : Fin 16) : Prop := c = Nat.digitChar d.val ∨ c = (Nat.digitChar d.val).toUpper

/-- A character `i` places after `lo`, where the `i`-th such character writes the digit `i + off`. -/
theorem isHexChar_of_range {c : Char} {lo hi off : Nat} (hlo : lo ≤ c.toNat) (hhi : c.toNat ≤ hi)
    (hchar : ∀ i < hi + 1 - lo, IsHexChar (Char.ofNat (lo + i)) (Fin.ofNat 16 (i + off))) :
    IsHexChar c (Fin.ofNat 16 (c.toNat - lo + off)) := by
  have h := hchar (c.toNat - lo) (by omega)
  rwa [Nat.add_sub_cancel' hlo, Char.ofNat_toNat] at h

theorem hexDigit_eq_some_iff {c : Char} {d : Fin 16} : hexDigit c = some d ↔ IsHexChar c d := by
  constructor
  · intro h
    simp only [hexDigit, char_le_iff] at h
    split at h
    case isTrue hrange =>
      cases h
      exact isHexChar_of_range (off := 0) hrange.1 hrange.2 (by decide)
    case isFalse =>
      split at h
      case isTrue hrange =>
        cases h
        exact isHexChar_of_range hrange.1 hrange.2 (by decide)
      case isFalse =>
        split at h
        case isTrue hrange =>
          cases h
          exact isHexChar_of_range hrange.1 hrange.2 (by decide)
        case isFalse => cases h
  · rintro (rfl | rfl)
    · revert d
      decide
    · revert d
      decide

theorem parseHex_eq_some_iff {cs : List Char} {ds : List (Fin 16)} :
    parseHex cs = some ds ↔ ds ≠ [] ∧ List.Forall₂ IsHexChar cs ds := by
  simp only [parseHex, List.isEmpty_iff, Option.ite_none_left_eq_some, mapM_eq_some_iff_forall₂, hexDigit_eq_some_iff]
  refine and_congr_left fun h => not_congr ?_
  rw [← List.length_eq_zero_iff, h.length_eq, List.length_eq_zero_iff]

/-! ### What each literal form denotes, and its bounds -/

theorem value_hex (ds : List (Fin 16)) : (Literal.hex ds).value = Nat.ofDigits 16 (ds.map Fin.val).reverse := by
  rw [← foldl_digits_eq_ofDigits, List.foldl_map]
  rfl

theorem value_hex_lt (ds : List (Fin 16)) : (Literal.hex ds).value < 16 ^ ds.length := by
  rw [value_hex]
  simpa using Nat.ofDigits_lt_base_pow_length (b := 16) (l := (ds.map Fin.val).reverse) (by decide) (by simp)

theorem wellFormed_iff {l : Literal} : l.wellFormed = true ↔ l.formOk = true ∧ l.value < 2 ^ 256 := by
  simp [Literal.wellFormed]

theorem toNat_ofNat_value {l : Literal} (h : l.wellFormed = true) : (BitVec.ofNat 256 l.value).toNat = l.value :=
  (BitVec.toNat_ofNat ..).trans (Nat.mod_eq_of_lt (wellFormed_iff.mp h).2)

theorem wellFormed_decimal {n : Nat} : (Literal.decimal n).wellFormed = true ↔ n < 2 ^ 256 := by
  rw [wellFormed_iff]
  exact ⟨And.right, fun h => ⟨rfl, h⟩⟩

/-- 64 hex digits are 256 bits. -/
theorem wellFormed_hex {ds : List (Fin 16)} :
    (Literal.hex ds).wellFormed = true ↔ ds ≠ [] ∧ ds.length ≤ 64 := by
  have hfits (h : ds.length ≤ 64) : (Literal.hex ds).value < 2 ^ 256 :=
    calc (Literal.hex ds).value < 16 ^ ds.length := value_hex_lt ds
      _ ≤ 16 ^ 64 := Nat.pow_le_pow_right (by decide) h
      _ = 2 ^ 256 := by norm_num
  simpa [wellFormed_iff, Literal.formOk] using fun _ => hfits

theorem wellFormed_pow {n : Nat} : (Literal.pow n).wellFormed = true ↔ n ≤ 255 := by
  have hfits (h : n ≤ 255) : 2 ^ n < 2 ^ 256 := Nat.pow_lt_pow_right (by decide) (by omega)
  simpa [wellFormed_iff, Literal.formOk, Literal.value] using hfits

theorem wellFormed_powMinusOne {n : Nat} : (Literal.powMinusOne n).wellFormed = true ↔ n ≤ 256 := by
  have hfits (h : n ≤ 256) : 2 ^ n - 1 < 2 ^ 256 :=
    Nat.lt_of_lt_of_le (Nat.sub_one_lt (Nat.two_pow_pos n).ne') (Nat.pow_le_pow_right (by decide) h)
  simpa [wellFormed_iff, Literal.formOk, Literal.value] using hfits

theorem wellFormed_powSum {n m : Nat} :
    (Literal.powSum n m).wellFormed = true ↔ n ≤ 255 ∧ m ≤ 255 ∧ 2 ^ n + 2 ^ m < 2 ^ 256 := by
  simp [wellFormed_iff, Literal.formOk, Literal.value, and_assoc]

/-- Two powers of two overflow 256 bits only where both are `2^255`. -/
theorem two_pow_add_two_pow_lt_iff {n m : Nat} (hn : n ≤ 255) (hm : m ≤ 255) :
    2 ^ n + 2 ^ m < 2 ^ 256 ↔ ¬ (n = 255 ∧ m = 255) := by
  constructor
  · rintro h ⟨rfl, rfl⟩
    omega
  · intro h
    have hn' : 2 ^ n ≤ 2 ^ 255 := Nat.pow_le_pow_right (by decide) hn
    have hm' : 2 ^ m ≤ 2 ^ 255 := Nat.pow_le_pow_right (by decide) hm
    rcases Nat.lt_or_eq_of_le hn with hlt | rfl
    · have : 2 ^ n ≤ 2 ^ 254 := Nat.pow_le_pow_right (by decide) (by omega)
      omega
    · have : 2 ^ m ≤ 2 ^ 254 := Nat.pow_le_pow_right (by decide) (by omega)
      omega

/-! ### Lines already read -/

theorem assembleLine_of_wellFormed {l : Literal} (h : l.wellFormed = true) (op : Op) :
    assembleLine ⟨op, l⟩ = .ok (op.command (BitVec.ofNat 256 l.value)) := by
  simp [assembleLine, literalOperand, h]

theorem assembleLine_of_not_wellFormed {l : Literal} (h : ¬ l.wellFormed = true) (op : Op) :
    assembleLine ⟨op, l⟩ = .error .literalOutOfRange := by
  simp [assembleLine, literalOperand, h]

theorem assembleLine_eq_ok_iff {op : Op} {l : Literal} {i : Instr} :
    assembleLine ⟨op, l⟩ = .ok i ↔
      ∃ x : Operand, l.wellFormed = true ∧ l.value = x.toNat ∧ i = op.command x := by
  by_cases h : l.wellFormed = true
  · rw [assembleLine_of_wellFormed h]
    constructor
    · intro hi
      cases hi
      exact ⟨_, h, (toNat_ofNat_value h).symm, rfl⟩
    · rintro ⟨x, -, hx, rfl⟩
      rw [hx, BitVec.ofNat_toNat, BitVec.setWidth_eq]
  · simp [assembleLine_of_not_wellFormed h, h]

/-! ### Literals -/

/-- The characters that do not end an exponent. -/
def inExponent (c : Char) : Bool := decide (c ≠ ' ' ∧ c ≠ '+' ∧ c ≠ '-')

theorem inExponent_digit : ∀ d : Fin 10, inExponent (Nat.digitChar d.val) = true := by decide

theorem digitChar_ne_x : ∀ d : Fin 10, 'x' ≠ Nat.digitChar d.val := by decide

theorem digitChar_ne_caret : ∀ d : Fin 10, '^' ≠ Nat.digitChar d.val := by decide

theorem parseLiteral_hex (cs : List Char) : parseLiteral ('0' :: 'x' :: cs) = (parseHex cs).map .hex := rfl

theorem parseLiteral_twoTo (cs : List Char) :
    parseLiteral ('2' :: '^' :: cs) =
      (parseDecimal (cs.takeWhile inExponent)).bind fun n => parseAfterExponent n (cs.dropWhile inExponent) := rfl

/-- The exponent ends where the digits do. -/
theorem parseLiteral_exponent {e rest : List Char} {n : Nat} (he : DecimalText e n)
    (hrest : rest.takeWhile inExponent = []) :
    parseLiteral ('2' :: '^' :: (e ++ rest)) = parseAfterExponent n rest := by
  have hdigits : ∀ c ∈ e, inExponent c = true := fun c hc => by
    obtain ⟨d, rfl⟩ := he.exists_digit hc
    exact inExponent_digit d
  have hdrop : rest.dropWhile inExponent = rest := by
    simpa [hrest] using List.takeWhile_append_dropWhile (p := inExponent) (l := rest)
  rw [parseLiteral_twoTo, List.takeWhile_append_of_pos hdigits, List.dropWhile_append_of_pos hdigits, hrest, hdrop,
    List.append_nil, parseDecimal_eq_some_iff.mpr he]
  rfl

/-- A decimal number begins with neither `0x` nor `2^`. -/
theorem parseLiteral_of_decimalText {cs : List Char} {n : Nat} (h : DecimalText cs n) :
    parseLiteral cs = some (.decimal n) := by
  unfold parseLiteral
  split
  case h_1 =>
    obtain ⟨d, hd⟩ := h.exists_digit (c := 'x') (by simp)
    exact absurd hd (digitChar_ne_x d)
  case h_2 =>
    obtain ⟨d, hd⟩ := h.exists_digit (c := '^') (by simp)
    exact absurd hd (digitChar_ne_caret d)
  case h_3 => rw [parseDecimal_eq_some_iff.mpr h]; rfl

/-- Everything that can follow an exponent. -/
theorem parseAfterExponent_cases {n : Nat} {rest : List Char} {l : Literal}
    (h : parseAfterExponent n rest = some l) :
    (rest = [] ∧ l = .pow n) ∨
    ((rest = [' ', '-', ' ', '1'] ∨ rest = ['-', '1']) ∧ l = .powMinusOne n) ∨
    ∃ plusTwoTo f m, (plusTwoTo = [' ', '+', ' ', '2', '^'] ∨ plusTwoTo = ['+', '2', '^']) ∧
      rest = plusTwoTo ++ f ∧ DecimalText f m ∧ l = .powSum n m := by
  unfold parseAfterExponent at h
  split at h
  case h_1 => cases h; exact .inl ⟨rfl, rfl⟩
  case h_2 => cases h; exact .inr (.inl ⟨.inl rfl, rfl⟩)
  case h_3 => cases h; exact .inr (.inl ⟨.inr rfl, rfl⟩)
  case h_4 f =>
    obtain ⟨m, hm, rfl⟩ := Option.map_eq_some_iff.mp h
    exact .inr (.inr ⟨_, f, m, .inl rfl, rfl, parseDecimal_eq_some_iff.mp hm, rfl⟩)
  case h_5 f =>
    obtain ⟨m, hm, rfl⟩ := Option.map_eq_some_iff.mp h
    exact .inr (.inr ⟨_, f, m, .inr rfl, rfl, parseDecimal_eq_some_iff.mp hm, rfl⟩)
  case h_6 => cases h

/-- Everything the reader takes for a literal. -/
theorem parseLiteral_cases {cs : List Char} {l : Literal} (h : parseLiteral cs = some l) :
    (∃ hs ds, cs = '0' :: 'x' :: hs ∧ parseHex hs = some ds ∧ l = .hex ds) ∨
    (∃ e rest n, cs = '2' :: '^' :: (e ++ rest) ∧ DecimalText e n ∧ parseAfterExponent n rest = some l) ∨
    ∃ n, DecimalText cs n ∧ l = .decimal n := by
  unfold parseLiteral at h
  split at h
  case h_1 hs =>
    obtain ⟨ds, hds, rfl⟩ := Option.map_eq_some_iff.mp h
    exact .inl ⟨hs, ds, rfl, hds, rfl⟩
  case h_2 cs =>
    obtain ⟨n, hn, hafter⟩ := Option.bind_eq_some_iff.mp h
    exact .inr (.inl ⟨_, _, n, by rw [List.takeWhile_append_dropWhile], parseDecimal_eq_some_iff.mp hn, hafter⟩)
  case h_3 =>
    obtain ⟨n, hn, rfl⟩ := Option.map_eq_some_iff.mp h
    exact .inr (.inr ⟨n, parseDecimal_eq_some_iff.mp hn, rfl⟩)

theorem exists_literal_of_literalText {cs : List Char} {n : Nat} (h : LiteralText cs n) :
    ∃ l, parseLiteral cs = some l ∧ l.wellFormed = true ∧ l.value = n := by
  cases h with
  | decimal htext hlt => exact ⟨_, parseLiteral_of_decimalText htext, wellFormed_decimal.mpr hlt, rfl⟩
  | hex htext =>
    obtain ⟨ds, hne, hlen, hchars, rfl⟩ := htext
    refine ⟨.hex ds, ?_, wellFormed_hex.mpr ⟨hne, hlen⟩, value_hex ds⟩
    rw [parseLiteral_hex, parseHex_eq_some_iff.mpr ⟨hne, hchars⟩]
    rfl
  | @pow e n he hn =>
    refine ⟨.pow n, ?_, wellFormed_pow.mpr hn, rfl⟩
    have hread := parseLiteral_exponent (rest := []) he rfl
    rwa [List.append_nil] at hread
  | @powMinusOne e minusOne n he hn hminus =>
    refine ⟨.powMinusOne n, ?_, wellFormed_powMinusOne.mpr hn, rfl⟩
    obtain rfl | rfl := hminus
    · exact parseLiteral_exponent he rfl
    · exact parseLiteral_exponent he rfl
  | @powSum e plusTwoTo f n m he hf hn hm hsum hplus =>
    refine ⟨.powSum n m, ?_, wellFormed_powSum.mpr ⟨hn, hm, hsum⟩, rfl⟩
    have hread : (parseDecimal f).map (Literal.powSum n) = some (.powSum n m) := by
      rw [parseDecimal_eq_some_iff.mpr hf]; rfl
    rw [List.append_assoc]
    obtain rfl | rfl := hplus
    · exact (parseLiteral_exponent he rfl).trans hread
    · exact (parseLiteral_exponent he rfl).trans hread

theorem literalText_of_parseLiteral {cs : List Char} {l : Literal} (h : parseLiteral cs = some l)
    (hl : l.wellFormed = true) : LiteralText cs l.value := by
  rcases parseLiteral_cases h with ⟨hs, ds, rfl, hds, rfl⟩ | ⟨e, rest, n, rfl, he, hafter⟩ | ⟨n, hn, rfl⟩
  · obtain ⟨hne, hchars⟩ := parseHex_eq_some_iff.mp hds
    exact .hex ⟨ds, hne, (wellFormed_hex.mp hl).2, hchars, value_hex ds⟩
  · rcases parseAfterExponent_cases hafter with ⟨rfl, rfl⟩ | ⟨hminus, rfl⟩ | ⟨plusTwoTo, f, m, hplus, rfl, hf, rfl⟩
    · rw [List.append_nil]
      exact .pow he (wellFormed_pow.mp hl)
    · exact .powMinusOne he (wellFormed_powMinusOne.mp hl) hminus
    · obtain ⟨hn, hm, hsum⟩ := wellFormed_powSum.mp hl
      rw [← List.append_assoc]
      exact .powSum he hf hn hm hsum hplus
  · exact .decimal hn (wellFormed_decimal.mp hl)

/-- The reader and the range check together accept the grammar of 30_encoding.md R78, each text with its value. -/
theorem literalText_iff {cs : List Char} {n : Nat} :
    LiteralText cs n ↔ ∃ l, parseLiteral cs = some l ∧ l.wellFormed = true ∧ l.value = n := by
  refine ⟨exists_literal_of_literalText, ?_⟩
  rintro ⟨l, h, hl, rfl⟩
  exact literalText_of_parseLiteral h hl

/-! ### Lines -/

/-- The text of a mnemonic and the space after it. -/
def mnemonicText : Op → List Char
  | .bsf => ['B', 'S', 'F', ' ']
  | .bsr => ['B', 'S', 'R', ' ']

theorem parseLine_eq_some_iff {cs : List Char} {op : Op} {l : Literal} :
    parseLine cs = some ⟨op, l⟩ ↔ ∃ lit, cs = mnemonicText op ++ lit ∧ parseLiteral lit = some l := by
  constructor
  · intro h
    unfold parseLine at h
    split at h
    case h_1 lit =>
      obtain ⟨l, hl, hline⟩ := Option.map_eq_some_iff.mp h
      cases hline
      exact ⟨lit, rfl, hl⟩
    case h_2 lit =>
      obtain ⟨l, hl, hline⟩ := Option.map_eq_some_iff.mp h
      cases hline
      exact ⟨lit, rfl, hl⟩
    case h_3 => cases h
  · rintro ⟨lit, rfl, hl⟩
    cases op <;> simp [mnemonicText, parseLine, hl]

theorem assemble_eq_ok_iff_parseLine {cs : List Char} {i : Instr} :
    assemble cs = .ok i ↔ ∃ op l, parseLine cs = some ⟨op, l⟩ ∧ assembleLine ⟨op, l⟩ = .ok i := by
  cases hline : parseLine cs with
  | none => simp [assemble, hline]
  | some line =>
    simp only [assemble, hline, Option.some.injEq]
    exact ⟨fun h => ⟨line.op, line.literal, rfl, h⟩, by rintro ⟨op, l, rfl, h⟩; exact h⟩

/-- The text reader, by mnemonic. -/
theorem assemble_eq_ok_iff {cs : List Char} {i : Instr} :
    assemble cs = .ok i ↔
      ∃ (lit : List Char) (x : Operand), LiteralText lit x.toNat ∧
        ∃ op : Op, cs = mnemonicText op ++ lit ∧ i = op.command x := by
  simp only [assemble_eq_ok_iff_parseLine, parseLine_eq_some_iff, assembleLine_eq_ok_iff, literalText_iff]
  constructor
  · rintro ⟨op, l, ⟨lit, rfl, hl⟩, x, hwf, hx, rfl⟩
    exact ⟨lit, x, ⟨l, hl, hwf, hx⟩, op, rfl, rfl⟩
  · rintro ⟨lit, x, ⟨l, hl, hwf, hx⟩, op, rfl, rfl⟩
    exact ⟨op, l, ⟨lit, rfl, hl⟩, x, hwf, hx, rfl⟩

/-- The two mnemonics written out. -/
theorem exists_mnemonic_iff {cs lit : List Char} {x : Operand} {i : Instr} :
    (∃ op, cs = mnemonicText op ++ lit ∧ i = Op.command op x) ↔
      (cs = 'B' :: 'S' :: 'F' :: ' ' :: lit ∧ i = .bsf x) ∨ (cs = 'B' :: 'S' :: 'R' :: ' ' :: lit ∧ i = .bsr x) := by
  constructor
  · rintro ⟨op, rfl, rfl⟩
    cases op with
    | bsf => exact .inl ⟨rfl, rfl⟩
    | bsr => exact .inr ⟨rfl, rfl⟩
  · rintro (h | h)
    · exact ⟨.bsf, h⟩
    · exact ⟨.bsr, h⟩

/-- Settles O5: a line already read by the bounds of its form, a text by the mnemonic it begins with. -/
theorem assemblerAcceptsExactlyTheLiteralForms : Obligations.AssemblerAcceptsExactlyTheLiteralForms := by
  refine ⟨fun op => ⟨fun n => ⟨fun h => ?_, fun h => ?_⟩, fun ds => ⟨fun hpos hlen => ?_, fun h => ?_⟩,
    fun n => ⟨fun h => ?_, fun h => ?_⟩, fun n => ⟨fun h => ?_, fun h => ?_⟩,
    fun n m => ⟨fun hn hm h => ?_, fun h => ?_⟩⟩, fun cs i => ?_⟩
  · -- a decimal number below `2^256`, and any other
    exact assembleLine_of_wellFormed (wellFormed_decimal.mpr h) op
  · exact assembleLine_of_not_wellFormed (fun hl => Nat.not_lt.mpr h (wellFormed_decimal.mp hl)) op
  · -- 1 to 64 hex digits, and none or more than 64
    have hl : (Literal.hex ds).wellFormed = true := wellFormed_hex.mpr ⟨List.length_pos_iff.mp hpos, hlen⟩
    exact ⟨_, (toNat_ofNat_value hl).trans (value_hex ds), assembleLine_of_wellFormed hl op⟩
  · refine assembleLine_of_not_wellFormed (fun hl => ?_) op
    obtain ⟨hne, hlen⟩ := wellFormed_hex.mp hl
    have hpos := List.length_pos_iff.mpr hne
    omega
  · -- `2^n`
    exact assembleLine_of_wellFormed (wellFormed_pow.mpr h) op
  · exact assembleLine_of_not_wellFormed (fun hl => Nat.not_le.mpr h (wellFormed_pow.mp hl)) op
  · -- `2^n - 1`
    exact assembleLine_of_wellFormed (wellFormed_powMinusOne.mpr h) op
  · exact assembleLine_of_not_wellFormed (fun hl => Nat.not_le.mpr h (wellFormed_powMinusOne.mp hl)) op
  · -- `2^n + 2^m`
    exact assembleLine_of_wellFormed (wellFormed_powSum.mpr ⟨hn, hm, (two_pow_add_two_pow_lt_iff hn hm).mpr h⟩) op
  · refine assembleLine_of_not_wellFormed (fun hl => ?_) op
    obtain ⟨hn, hm, hsum⟩ := wellFormed_powSum.mp hl
    have hnotBoth := (two_pow_add_two_pow_lt_iff hn hm).mp hsum
    omega
  · -- a text
    rw [assemble_eq_ok_iff]
    simp only [exists_mnemonic_iff]

end Sys2Proof.Machine

/-! The encoder's schedule and constants: the widths and masks (40_encoder.md R100, R101), what one stage can do to the
accumulator and to the working value (R106, R107), the grouping of stages into cycles (R105), and the two ends of the
schedule, the completion (R108) and the stop beyond stage 7 (R110). -/

namespace Sys2Proof.Machine

/-! ### The accumulator -/

/-- A BSR stage keeps the accumulator or adds its window, exactly where there is room for the window. -/
theorem toNat_r_stage_bsr {k : Nat} {d : Datapath} (hroom : d.r.toNat + window k < 256) :
    (stage .bsr k d).r.toNat = d.r.toNat ∨ (stage .bsr k d).r.toNat = d.r.toNat + window k := by
  simp only [stage, stageBsr]
  split
  case isTrue =>
    right
    rw [BitVec.toNat_add, toNat_ofNat_window, Nat.mod_eq_of_lt hroom]
  case isFalse => exact .inl rfl

/-- A BSF stage keeps the accumulator or subtracts its window, exactly where the accumulator holds the window. -/
theorem toNat_r_stage_bsf {k : Nat} {d : Datapath} (hholds : window k ≤ d.r.toNat) :
    d.r.toNat = (stage .bsf k d).r.toNat ∨ d.r.toNat = (stage .bsf k d).r.toNat + window k := by
  simp only [stage, stageBsf]
  split
  case isTrue =>
    right
    have hle : BitVec.ofNat 8 (window k) ≤ d.r := by rwa [BitVec.le_def, toNat_ofNat_window]
    rw [BitVec.toNat_sub_of_le hle, toNat_ofNat_window, Nat.sub_add_cancel hholds]
  case isFalse => exact .inl rfl

/-- Before stage `k` the BSR accumulator has room for all the windows to come, whose sum is `2^(8-k) - 1`. -/
theorem toNat_r_runStages_bsr_room (x : Operand) {k : Nat} (hk : k ≤ 8) :
    (runStages .bsr k 0 (initialDatapath .bsr x)).r.toNat + 2 ^ (8 - k) ≤ 256 := by
  induction k with
  | zero => exact Nat.le_refl 256
  | succ k ih =>
    have hroom := ih (by omega)
    have hpos := window_pos k
    rw [two_pow_eight_sub (by omega)] at hroom
    rw [runStages_succ, Nat.zero_add, two_pow_eight_sub_succ]
    rcases toNat_r_stage_bsr (k := k) (d := runStages .bsr k 0 (initialDatapath .bsr x)) (by omega) with h | h <;> omega

/-- Before stage `k` the BSF accumulator holds all the windows to come, whose sum is `2^(8-k) - 1`. -/
theorem le_toNat_r_runStages_bsf (x : Operand) {k : Nat} (hk : k ≤ 8) :
    2 ^ (8 - k) ≤ (runStages .bsf k 0 (initialDatapath .bsf x)).r.toNat + 1 := by
  induction k with
  | zero => exact Nat.le_refl 256
  | succ k ih =>
    have hholds := ih (by omega)
    have hpos := window_pos k
    rw [two_pow_eight_sub (by omega)] at hholds
    rw [runStages_succ, Nat.zero_add, two_pow_eight_sub_succ]
    rcases toNat_r_stage_bsf (k := k) (d := runStages .bsf k 0 (initialDatapath .bsf x)) (by omega) with h | h <;> omega

/-- Settles O11: before each stage the accumulator has room for that stage's window, whatever the operand. -/
theorem accumulatorNeverWraps : Obligations.AccumulatorNeverWraps := by
  intro x k hk
  have hpos := window_pos k
  have hroom := toNat_r_runStages_bsr_room x (show k ≤ 8 by omega)
  have hholds := le_toNat_r_runStages_bsf x (show k ≤ 8 by omega)
  rw [two_pow_eight_sub hk] at hroom hholds
  rw [runStages_succ, runStages_succ, Nat.zero_add]
  exact ⟨rfl, rfl, toNat_r_stage_bsr (by omega), toNat_r_stage_bsf (by omega)⟩

/-! ### The shifts -/

/-- A stage of either operation keeps the working value or shifts it right by its window. -/
theorem w_stage_cases (op : Op) (k : Nat) (d : Datapath) :
    (stage op k d).w = d.w ∨ (stage op k d).w = d.w >>> window k := by
  cases op with
  | bsf =>
    simp only [stage, stageBsf]
    split
    case isTrue => exact .inl rfl
    case isFalse => exact .inr rfl
  | bsr =>
    simp only [stage, stageBsr]
    split
    case isTrue =>
      by_cases hk : k < 7
      · exact .inr (if_pos hk)
      · exact .inl (if_neg hk)
    case isFalse => exact .inl rfl

/-- The shifts of the first `k` BSF stages leave all the windows to come below 256. -/
theorem bsfShift_room (x : Operand) {k : Nat} (hk : k ≤ 8) : bsfShift x k + 2 ^ (8 - k) ≤ 256 := by
  induction k with
  | zero => exact Nat.le_refl 256
  | succ k ih =>
    have hroom := ih (by omega)
    rw [two_pow_eight_sub (by omega)] at hroom
    rw [bsfShift_succ, two_pow_eight_sub_succ]
    split <;> omega

/-- Settles O12. -/
theorem shiftsAreByTheWindows : Obligations.ShiftsAreByTheWindows := by
  refine ⟨fun op k d _ => ⟨?_, window_pos k, window_le k⟩, fun x => ?_⟩
  · -- one stage
    refine (w_stage_cases op k d).imp_right fun hw => ?_
    rw [hw, toNat_operand_shiftRight]
  · -- a whole BSF: the last window to come is a single bit
    have hroom : bsfShift x 8 + 1 ≤ 256 := bsfShift_room x (Nat.le_refl 8)
    omega

/-! ### Groups of stages -/

/-- Groups run in turn, from any stage on, are as many stages in a row as the groups have together. -/
theorem foldl_runStages (op : Op) (groups : List Nat) (k : Nat) (d : Datapath) :
    groups.foldl (fun (kd : Nat × Datapath) n => (kd.1 + n, runStages op n kd.1 kd.2)) (k, d) =
      (k + groups.sum, runStages op groups.sum k d) := by
  induction groups generalizing k d with
  | nil => rfl
  | cons n groups ih => rw [List.foldl_cons, ih, List.sum_cons, runStages_add, Nat.add_assoc]

/-- Settles O13: the groups of eight stages, from stage 0 on. -/
theorem stageGroupingDoesNotMatter : Obligations.StageGroupingDoesNotMatter := by
  intro op groups d hsum
  rw [foldl_runStages, hsum, Nat.zero_add]

/-! ### The constants and the zero test -/

theorem getLsbD_mask (k i : Nat) : (mask k).getLsbD i = decide (i < window k) := by
  rw [BitVec.getLsbD, toNat_mask, Nat.testBit_two_pow_sub_one]

/-- Settles O6. -/
theorem windowWidthsAndConstants : Obligations.WindowWidthsAndConstants := by
  refine ⟨by decide, by decide, fun k hk => ?_, fun k _ => ⟨rfl, toNat_mask k, fun i _ => getLsbD_mask k i⟩⟩
  have hhalf := two_mul_window_succ hk
  omega

/-- Settles O7: the zero operand is the one whose bits below 256 are all clear. -/
theorem zeroTestReadsEveryBit : Obligations.ZeroTestReadsEveryBit := by
  intro x
  rw [zeroDetect_iff]
  constructor
  · rintro rfl i -
    exact BitVec.getLsbD_zero
  · intro hclear
    exact BitVec.eq_of_getLsbD_eq fun i hi => (hclear i hi).trans BitVec.getLsbD_zero.symm

/-! ### The end of the schedule -/

/-- Settles O27: the completing edge, with the result selection at each value of `ZQ`. -/
theorem completionSelectsTheResult : Obligations.CompletionSelectsTheResult := by
  intro s hb hbusy hlast hr
  refine ⟨_, step_completes hb hbusy hr hlast, rfl, rfl, ?_, fun hzero => ?_, fun hnonzero => ?_⟩
  · -- the zero flag
    simp
  · -- the index of a zero operand
    simp [hzero]
  · -- the index of any other operand
    simp [hnonzero]

theorem advance_of_gt {s : State} (h : 8 < s.k.toNat + s.spc.stages) : advance s = .fault .stageUndefined := by
  rw [advance, if_neg (by omega), if_neg (by omega)]

/-- Settles O44: with or without a command, the edge of a busy block is its advance, and that stops. -/
theorem undefinedStageStopsByName : Obligations.UndefinedStageStopsByName := by
  intro i s hb hbusy hbeyond
  rw [exec_busy hb hbusy, edgeWithoutCommand_busy hb hbusy]
  exact ⟨advance_of_gt hbeyond, advance_of_gt hbeyond⟩

end Sys2Proof.Machine

/-! BSR (41_bsr.md): the two branches of a stage (R122, R123), the invariant before every stage (R124), the unique most
significant set bit as the command's result (R125), and the corner cases (R126). -/

namespace Sys2Proof.Machine

/-! ### One stage -/

/-- A working value at or above the threshold: all stages but the last shift it. -/
theorem stage_bsr_of_le {k : Nat} {d : Datapath} (hge : 2 ^ window k ≤ d.w.toNat) :
    stage .bsr k d =
      { w := if k < 7 then d.w >>> window k else d.w, r := d.r + BitVec.ofNat 8 (window k) } :=
  if_pos hge

theorem stage_bsr_of_lt {k : Nat} {d : Datapath} (hlt : d.w.toNat < 2 ^ window k) : stage .bsr k d = d :=
  if_neg (Nat.not_le.mpr hlt)

/-- Settles O8. -/
theorem bsrStageTestsShiftsAndAdds : Obligations.BsrStageTestsShiftsAndAdds := by
  intro k d hk
  refine ⟨fun hge => ?_, stage_bsr_of_lt⟩
  rw [stage_bsr_of_le hge, if_pos hk]
  exact ⟨toNat_operand_shiftRight .., rfl⟩

/-- Settles O9: the threshold of stage 7 is 2, its window 1. -/
theorem bsrLastStageAddsWithoutShift : Obligations.BsrLastStageAddsWithoutShift := by
  refine fun d => ⟨fun hge => ?_, stage_bsr_of_lt (k := 7)⟩
  rw [stage_bsr_of_le (k := 7) hge]
  exact ⟨rfl, rfl⟩

/-! ### The stages in a row -/

/-- Settles O14: the window invariant, whose bound before stage 7 is 4. -/
theorem bsrWindowInvariant : Obligations.BsrWindowInvariant := by
  rintro x k d hx hk rfl
  have h := bsrWindow_runStages hx hk
  refine ⟨h.shifted, h.pos, h.lt, fun m hm => ?_, ?_⟩
  · rw [h.shifted] at hm
    exact isMsb_of_isMsb_shiftRight hm
  · rintro rfl
    have hlt : (runStages .bsr 7 0 (initialDatapath .bsr x)).w.toNat < 4 := h.lt
    have hpos := h.pos
    omega

/-- On a zero operand no stage fires (41_bsr.md R125). -/
theorem runStages_bsr_zero (n : Nat) : runStages .bsr n 0 (initialDatapath .bsr 0) = initialDatapath .bsr 0 := by
  induction n with
  | zero => rfl
  | succ n ih =>
    rw [runStages_succ, ih]
    exact stage_bsr_of_lt (Nat.two_pow_pos _)

theorem IsMsb.unique {x : Operand} {m n : Nat} (hm : IsMsb x m) (hn : IsMsb x n) : m = n :=
  (Nat.log_eq_of_pow_le_of_lt_pow hm.1 hm.2).symm.trans (Nat.log_eq_of_pow_le_of_lt_pow hn.1 hn.2)

theorem IsMsb.ne_zero {x : Operand} {m : Nat} (h : IsMsb x m) : x ≠ 0 := by
  rintro rfl
  exact Nat.not_lt.mpr h.1 (Nat.two_pow_pos m)

/-! ### The result of a command -/

theorem scan_zero (op : Op) : scan op 0 = .zeroValue := by
  rw [scan, zeroDetect_iff.mpr rfl]
  rfl

theorem scan_of_ne_zero (op : Op) {x : Operand} (hx : x ≠ 0) :
    scan op x = .index (runStages op 8 0 (initialDatapath op x)).r := by
  rw [scan, zeroDetect_eq_false hx]
  rfl

/-- What a block presents after a command on the zero operand (60_exceptions.md R161). -/
theorem Completed.outcome_of_zero {op : Op} {s : State} (h : Completed op 0 s) :
    s.rzero = true ∧ s.ridx = 0x00 ∧ s.result = some .zeroValue := by
  obtain ⟨hzero, -⟩ := h.isResultOf
  obtain ⟨hrzero, hridx⟩ := hzero rfl
  exact ⟨hrzero, hridx, by rw [h.result_eq, scan_zero]⟩

/-- What a block presents after a command on any other operand: its accumulator, which is the scan index. -/
theorem Completed.outcome_of_ne_zero {op : Op} {x : Operand} {s : State} (h : Completed op x s) (hx : x ≠ 0) :
    s.rzero = false ∧ s.ridx = s.r ∧ IsScanIndex op x s.ridx.toNat ∧ s.result = some (.index s.ridx) := by
  obtain ⟨-, hnonzero⟩ := h.isResultOf
  obtain ⟨hrzero, hindex⟩ := hnonzero hx
  refine ⟨hrzero, ?_, hindex, ?_⟩
  · rw [h.idx, zeroDetect_eq_false hx, resultIndex_false]
  · rw [result_of_valid h.valid, hrzero]
    rfl

/-- Settles O35: the accepted command completes, and the index it presents is the one most significant set bit. -/
theorem bsrCommandPresentsTheMsb : Obligations.BsrCommandPresentsTheMsb := by
  intro x s hb hidle
  refine ⟨accept .bsr x s, exec_idle hb hidle _, rfl, fun hr => ?_⟩
  obtain ⟨u, hrun, hu, hspc⟩ := runEdges_accept_completes .bsr x hb hr
  refine ⟨u, hrun, hu.valid, hu.idle, hu.opLatched, hspc, hu.booted, ?_, fun hx => ?_⟩
  · rintro rfl
    obtain ⟨hrzero, hridx, hresult⟩ := hu.outcome_of_zero
    have hraw : u.r = 0 := by rw [hu.accumulator, runStages_bsr_zero]; rfl
    exact ⟨hrzero, hridx, hraw, hresult⟩
  · obtain ⟨hrzero, hridx, hmsb, hresult⟩ := hu.outcome_of_ne_zero hx
    exact ⟨hrzero, hridx, hmsb, fun m hm => IsMsb.unique hm hmsb, hresult⟩

/-! ### The corner cases -/

/-- BSR answers the index that is the operand's most significant set bit (41_bsr.md R125). -/
theorem scan_bsr_of_isMsb {x : Operand} {m : Nat} (h : IsMsb x m) : scan .bsr x = .index (BitVec.ofNat 8 m) := by
  have hx := IsMsb.ne_zero h
  rw [scan_of_ne_zero .bsr hx, IsMsb.unique h (isMsb_runStages hx), BitVec.ofNat_toNat, BitVec.setWidth_eq]

theorem toNat_one_shiftLeft {i : Nat} (hi : i ≤ 255) : (1#256 <<< i).toNat = 2 ^ i := by
  rw [← BitVec.twoPow_eq, BitVec.toNat_twoPow_of_lt (Nat.lt_succ_of_le hi)]

theorem toNat_one_shiftLeft_sub_one {i : Nat} (hi : i ≤ 255) : (1#256 <<< i - 1).toNat = 2 ^ i - 1 := by
  have hle : 1#256 ≤ 1#256 <<< i := by
    rw [BitVec.le_def, toNat_one_shiftLeft hi]
    exact Nat.two_pow_pos i
  exact (BitVec.toNat_sub_of_le hle).trans (congrArg (· - 1) (toNat_one_shiftLeft hi))

theorem isMsb_of_toNat_eq_two_pow {x : Operand} {i : Nat} (h : x.toNat = 2 ^ i) : IsMsb x i :=
  ⟨h.ge, h ▸ Nat.pow_lt_pow_succ (by decide)⟩

theorem isMsb_of_toNat_eq_two_pow_sub_one {x : Operand} {i : Nat} (h : x.toNat = 2 ^ (i + 1) - 1) : IsMsb x i := by
  have hpos := Nat.two_pow_pos i
  rw [Nat.pow_succ] at h
  exact ⟨by omega, by rw [Nat.pow_succ]; omega⟩

theorem scan_bsr_two_pow {i : Nat} (hi : i ≤ 255) : scan .bsr (1#256 <<< i) = .index (BitVec.ofNat 8 i) :=
  scan_bsr_of_isMsb (isMsb_of_toNat_eq_two_pow (toNat_one_shiftLeft hi))

theorem scan_bsr_two_pow_sub_one {i : Nat} (hi : i < 255) :
    scan .bsr (1#256 <<< (i + 1) - 1) = .index (BitVec.ofNat 8 i) :=
  scan_bsr_of_isMsb (isMsb_of_toNat_eq_two_pow_sub_one (toNat_one_shiftLeft_sub_one hi))

/-- Settles O17: but for 0, each row is a power of two or the number just below one; the remarks on stage 0 are its two
branches. -/
theorem bsrCornerCases : Obligations.BsrCornerCases := by
  refine ⟨scan_zero .bsr, zeroDetect_iff.mpr rfl, fun r => ?_, scan_bsr_two_pow (i := 0) (by decide),
    scan_bsr_two_pow (i := 1) (by decide), scan_bsr_two_pow_sub_one (i := 1) (by decide),
    scan_bsr_two_pow (by decide), scan_bsr_two_pow_sub_one (i := 254) (by decide), ?_,
    fun i hi => scan_bsr_two_pow hi, scan_bsr_two_pow (by decide), ?_,
    scan_bsr_two_pow_sub_one (i := 127) (by decide), ?_⟩
  · -- the index of the zero operand
    rw [zeroDetect_iff.mpr rfl, resultIndex_true]
  · -- all ones
    exact scan_bsr_of_isMsb (isMsb_of_toNat_eq_two_pow_sub_one (i := 255) BitVec.toNat_allOnes)
  · -- stage 0 fires on `2^128`
    exact stage_bsr_of_le (k := 0) (toNat_one_shiftLeft (i := 128) (by decide)).ge
  · -- stage 0 does not fire on `2^128 - 1`
    refine stage_bsr_of_lt (k := 0) ?_
    have hw := toNat_one_shiftLeft_sub_one (i := 128) (by decide)
    exact hw ▸ Nat.sub_lt (Nat.two_pow_pos 128) Nat.one_pos

end Sys2Proof.Machine

/-! BSF (42_bsf.md): the two branches of a stage (R142), the invariant before every stage (R143), the unique least
significant set bit as the command's result (R144), the corner cases (R145), the raw accumulator on a zero operand (R146)
and the comparison with BSR (R147). -/

namespace Sys2Proof.Machine

/-! ### One stage -/

theorem stage_bsf_of_low_ne_zero {k : Nat} {d : Datapath} (hlow : d.w.toNat % 2 ^ window k ≠ 0) :
    stage .bsf k d = { w := d.w, r := d.r - BitVec.ofNat 8 (window k) } :=
  if_pos (mt (and_mask_eq_zero_iff d.w k).mp hlow)

theorem stage_bsf_of_low_eq_zero {k : Nat} {d : Datapath} (hlow : d.w.toNat % 2 ^ window k = 0) :
    stage .bsf k d = { w := d.w >>> window k, r := d.r } :=
  if_neg (not_not_intro ((and_mask_eq_zero_iff d.w k).mpr hlow))

/-- Settles O10. -/
theorem bsfStageTestsTheLowHalf : Obligations.BsfStageTestsTheLowHalf := by
  refine fun k d _ => ⟨fun hlow => ?_, fun hlow => ?_⟩
  · rw [stage_bsf_of_low_ne_zero hlow]
    exact ⟨rfl, rfl⟩
  · rw [stage_bsf_of_low_eq_zero hlow]
    exact ⟨toNat_operand_shiftRight .., rfl⟩

/-! ### The least significant set bit -/

/-- The least significant set bit as a remainder. -/
theorem isLsb_iff_mod {x : Operand} {m : Nat} : IsLsb x m ↔ x.toNat % 2 ^ (m + 1) = 2 ^ m := by
  constructor
  · rintro ⟨hset, hclear⟩
    refine Nat.eq_of_testBit_eq fun j => ?_
    rw [Nat.testBit_mod_two_pow, Nat.testBit_two_pow]
    rcases Nat.lt_trichotomy j m with hlt | rfl | hgt
    · have hbit : x.toNat.testBit j = false := hclear j hlt
      simp [hbit, hlt.ne']
    · have hbit : x.toNat.testBit j = true := hset
      simp [hbit]
    · simp [hgt.ne, Nat.not_lt.mpr hgt]
  · intro hmod
    have hbit (j : Nat) (hj : j < m + 1) : x.getLsbD j = decide (m = j) := by
      rw [← Nat.testBit_two_pow, ← hmod, Nat.testBit_mod_two_pow, decide_eq_true hj, Bool.true_and, BitVec.getLsbD]
    exact ⟨by simp [hbit], fun j hj => by simp [hbit j (by omega), hj.ne']⟩

theorem IsLsb.unique {x : Operand} {m n : Nat} (hm : IsLsb x m) (hn : IsLsb x n) : m = n := by
  rcases Nat.lt_trichotomy m n with hlt | heq | hgt
  · exact absurd hm.1 (Bool.eq_false_iff.mp (hn.2 m hlt))
  · exact heq
  · exact absurd hn.1 (Bool.eq_false_iff.mp (hm.2 n hgt))

theorem IsLsb.ne_zero {x : Operand} {m : Nat} (h : IsLsb x m) : x ≠ 0 := by
  rintro rfl
  exact absurd (BitVec.getLsbD_zero.symm.trans h.1) Bool.false_ne_true

theorem IsLsb.two_pow_le {x : Operand} {m : Nat} (h : IsLsb x m) : 2 ^ m ≤ x.toNat :=
  Nat.ge_two_pow_of_testBit h.1

theorem IsLsb.le_of_isMsb {x : Operand} {l m : Nat} (hl : IsLsb x l) (hm : IsMsb x m) : l ≤ m :=
  Nat.lt_succ_iff.mp ((Nat.pow_lt_pow_iff_right (by decide)).mp (hl.two_pow_le.trans_lt hm.2))

theorem isLsb_of_toNat_eq_two_pow {x : Operand} {n : Nat} (h : x.toNat = 2 ^ n) : IsLsb x n :=
  isLsb_iff_mod.mpr (by rw [h, Nat.mod_eq_of_lt (Nat.pow_lt_pow_succ (by decide))])

/-- One bit is both the least and the most significant set bit exactly at that power of two. -/
theorem isLsb_and_isMsb_iff {x : Operand} {n : Nat} : IsLsb x n ∧ IsMsb x n ↔ x.toNat = 2 ^ n := by
  constructor
  · rintro ⟨hlsb, -, hlt⟩
    rw [← isLsb_iff_mod.mp hlsb, Nat.mod_eq_of_lt hlt]
  · exact fun h => ⟨isLsb_of_toNat_eq_two_pow h, isMsb_of_toNat_eq_two_pow h⟩

/-! ### The stages in a row -/

/-- Before stage `k` the bit BSF looks for is among the `2^(8-k)` candidates above the total shift. -/
theorem BsfWindow.isLsb_bounds {x : Operand} {k m : Nat} {d : Datapath} (h : BsfWindow x k d) (hm : IsLsb x m) :
    bsfShift x k ≤ m ∧ m < bsfShift x k + 2 ^ (8 - k) := by
  constructor
  · by_contra hlt
    exact absurd hm.1 (Bool.eq_false_iff.mp (h.clear m (Nat.not_le.mp hlt)))
  · by_contra hge
    refine h.nonzero (Nat.zero_of_testBit_eq_false fun j => ?_)
    rw [Nat.testBit_mod_two_pow, Bool.and_eq_false_imp, decide_eq_true_iff]
    intro hj
    have hcand : x.getLsbD (bsfShift x k + j) = false := hm.2 _ (by omega)
    rwa [← BitVec.getLsbD_ushiftRight, ← h.shifted] at hcand

/-- Settles O15: the window invariant, with its `2^(8-k)` candidates as two windows. -/
theorem bsfWindowInvariant : Obligations.BsfWindowInvariant := by
  refine fun x hx => ⟨?_, toNat_r_runStages_bsf hx, toNat_r_runStages_bsf hx ▸ isLsb_runStages hx⟩
  rintro k d hk rfl
  have h := bsfWindow_runStages hx (show k ≤ 8 by omega)
  have hwide := two_pow_eight_sub hk
  have hacc := h.accumulator
  refine ⟨h.shifted, h.clear, fun m hm => ?_, by omega⟩
  obtain ⟨hlo, hhi⟩ := h.isLsb_bounds hm
  omega

/-- On a zero operand every stage shifts (42_bsf.md R146). -/
theorem runStages_bsf_zero (n : Nat) : runStages .bsf n 0 (initialDatapath .bsf 0) = initialDatapath .bsf 0 := by
  induction n with
  | zero => rfl
  | succ n ih =>
    rw [runStages_succ, ih, stage_bsf_of_low_eq_zero (Nat.zero_mod _)]
    exact congrArg (Datapath.mk · 0xFF) BitVec.zero_ushiftRight

/-! ### The result of a command -/

theorem r_runStages_bsf_of_isLsb {x : Operand} {m : Nat} (h : IsLsb x m) :
    (runStages .bsf 8 0 (initialDatapath .bsf x)).r = BitVec.ofNat 8 m := by
  rw [IsLsb.unique h (isLsb_runStages h.ne_zero), BitVec.ofNat_toNat, BitVec.setWidth_eq]

/-- BSF answers the index that is the operand's least significant set bit (42_bsf.md R144). -/
theorem scan_bsf_of_isLsb {x : Operand} {m : Nat} (h : IsLsb x m) : scan .bsf x = .index (BitVec.ofNat 8 m) := by
  rw [scan_of_ne_zero .bsf h.ne_zero, r_runStages_bsf_of_isLsb h]

/-- Settles O34: the accepted command completes, and the index it presents is the one least significant set bit. -/
theorem bsfCommandPresentsTheLsb : Obligations.BsfCommandPresentsTheLsb := by
  intro x s hb hidle
  refine ⟨accept .bsf x s, exec_idle hb hidle _, rfl, fun hr => ?_⟩
  obtain ⟨u, hrun, hu, hspc⟩ := runEdges_accept_completes .bsf x hb hr
  refine ⟨u, hrun, hu.valid, hu.idle, hu.opLatched, hspc, hu.booted, ?_, fun hx => ?_⟩
  · rintro rfl
    exact hu.outcome_of_zero
  · obtain ⟨hrzero, hridx, hlsb, hresult⟩ := hu.outcome_of_ne_zero hx
    exact ⟨hrzero, hridx, hlsb, fun m hm => IsLsb.unique hm hlsb, hresult⟩

/-! ### The two operations on one operand -/

/-- Settles O19: the two answers are the least and the most significant set bit of the operand. -/
theorem lsbIsAtMostMsb : Obligations.LsbIsAtMostMsb := by
  refine ⟨fun x hx => ?_, scan_zero .bsf, scan_zero .bsr⟩
  have hlsb := isLsb_runStages hx
  have hmsb := isMsb_runStages hx
  refine ⟨_, _, scan_of_ne_zero .bsf hx, scan_of_ne_zero .bsr hx, hlsb.le_of_isMsb hmsb, fun heq => ?_, ?_⟩
  · rw [← heq] at hmsb
    exact ⟨_, isLsb_and_isMsb_iff.mp ⟨hlsb, hmsb⟩⟩
  · rintro ⟨n, hn⟩
    obtain ⟨hl, hm⟩ := isLsb_and_isMsb_iff.mpr hn
    exact BitVec.eq_of_toNat_eq ((hlsb.unique hl).trans (hm.unique hmsb))

/-! ### The corner cases -/

theorem isLsb_one_shiftLeft {i : Nat} (hi : i ≤ 255) : IsLsb (1#256 <<< i) i :=
  isLsb_of_toNat_eq_two_pow (toNat_one_shiftLeft hi)

theorem scan_bsf_two_pow {i : Nat} (hi : i ≤ 255) : scan .bsf (1#256 <<< i) = .index (BitVec.ofNat 8 i) :=
  scan_bsf_of_isLsb (isLsb_one_shiftLeft hi)

theorem scan_bsf_of_odd {x : Operand} (h : x.toNat % 2 = 1) : scan .bsf x = .index 0 :=
  scan_bsf_of_isLsb (isLsb_iff_mod.mpr h)

/-- Settles O16: the zero operand keeps the accumulator the accept gave it, and `2^255` has its least significant set bit at
255. -/
theorem rawAccumulatorOnZeroOperand : Obligations.RawAccumulatorOnZeroOperand := by
  refine ⟨fun k _ => runStages_bsf_zero k, fun k _ => ?_, r_runStages_bsf_of_isLsb (isLsb_one_shiftLeft (by decide)),
    scan_zero .bsf, scan_bsf_two_pow (by decide)⟩
  rw [bsfShift_succ, runStages_bsf_zero]
  exact if_pos (Nat.zero_mod _)

/-- A working value of 1 fires at every stage. -/
theorem stage_bsf_of_one {k : Nat} {d : Datapath} (hw : d.w = 1) :
    stage .bsf k d = ⟨1, d.r - BitVec.ofNat 8 (window k)⟩ := by
  have hlt : d.w.toNat < 2 ^ window k := hw ▸ Nat.one_lt_two_pow (Nat.one_le_iff_ne_zero.mp (window_pos k))
  have hlow : d.w.toNat % 2 ^ window k ≠ 0 := by
    rw [Nat.mod_eq_of_lt hlt, hw]
    exact Nat.one_ne_zero
  rw [stage_bsf_of_low_ne_zero hlow, hw]

/-- Stage 0 finds the low half of `2^128` empty (42_bsf.md R145). -/
theorem stage_bsf_two_pow_128 : stage .bsf 0 (initialDatapath .bsf (1#256 <<< 128)) = ⟨1, 255⟩ :=
  stage_bsf_of_low_eq_zero (k := 0) (by decide)

theorem w_runStages_bsf_two_pow_128 (n : Nat) :
    (runStages .bsf (n + 1) 0 (initialDatapath .bsf (1#256 <<< 128))).w = 1 := by
  induction n with
  | zero => exact congrArg Datapath.w stage_bsf_two_pow_128
  | succ n ih => rw [runStages_succ, stage_bsf_of_one ih]

/-- Settles O18: but for 0, each row is an odd number, a power of two, or the sum of two; the remarks on the stages of
`2^128` are its one shift and then a working value of 1. -/
theorem bsfCornerCases : Obligations.BsfCornerCases := by
  refine ⟨scan_zero .bsf, zeroDetect_iff.mpr rfl, fun r => ?_, scan_bsf_of_odd rfl,
    scan_bsf_two_pow (i := 1) (by decide), scan_bsf_of_odd rfl, scan_bsf_two_pow (by decide), ?_, ?_,
    fun i hi => scan_bsf_two_pow hi, scan_bsf_two_pow (by decide), stage_bsf_two_pow_128, fun k _ hk => ?_, ?_, ?_⟩
  · -- the index of the zero operand
    rw [zeroDetect_iff.mpr rfl, resultIndex_true]
  · -- `2^255 - 1`
    exact scan_bsf_of_odd (by decide)
  · -- all ones
    exact scan_bsf_of_odd (by decide)
  · -- the later stages on `2^128`
    obtain ⟨n, rfl⟩ := Nat.exists_eq_add_of_le' hk
    rw [runStages_succ, Nat.zero_add]
    exact stage_bsf_of_one (w_runStages_bsf_two_pow_128 n)
  · -- `2^128 + 2^127`
    exact scan_bsf_of_isLsb (m := 127) (isLsb_iff_mod.mpr (by decide))
  · -- the low half that stage 0 tests
    decide

end Sys2Proof.Machine

/-! The failure `ZeroValue` and the independence of instances (60_exceptions.md R169, R170). -/

namespace Sys2Proof.Machine

/-! ### After a failure -/

theorem Completed.response_of_zero {op : Op} {s : State} (h : Completed op 0 s) : s.response = some 0x100#9 := by
  obtain ⟨hrzero, hridx, -⟩ := h.outcome_of_zero
  rw [response_of_valid h.valid, hrzero, hridx]
  rfl

/-- Settles O41: the edge completes the command, and a completed block is idle, which is all an accept asks. -/
theorem zeroValueNeedsNoRecovery : Obligations.ZeroValueNeedsNoRecovery := by
  intro op s h hlast hr
  obtain ⟨t, hstep, ht, -⟩ := h.step_completes hr hlast
  obtain ⟨-, -, hresult⟩ := ht.outcome_of_zero
  exact ⟨t, hstep, hresult, ht.response_of_zero, ht.idle, ht.valid, exec_idle ht.booted ht.idle⟩

/-! ### Instances side by side -/

/-- One block of a bank after an edge of its own clock: a stopped one stays as it is (assumption log 15). -/
def afterEdge (s : State) : State :=
  match step s with
  | .next t => t
  | .fault _ => s
  | .refused _ => s

/-- An edge of block `m` rewrites that entry of the bank and nothing else. -/
theorem clockInstance_eq_modify (m : Nat) (bank : List State) : clockInstance m bank = bank.modify m afterEdge := by
  rw [List.modify_eq_set_getElem?, clockInstance]
  cases h : bank[m]? with
  | none => rfl
  | some s =>
    obtain ⟨hm, rfl⟩ := List.getElem?_eq_some_iff.mp h
    have hstays : bank = bank.set m bank[m] := (List.set_getElem_self hm).symm
    simp only [afterEdge, Option.map_eq_map, Option.map_some, Option.getD_some]
    cases step bank[m] with
    | next t => rfl
    | fault _ => exact hstays
    | refused _ => exact hstays

theorem getElem?_clockInstance_self (n : Nat) (bank : List State) :
    (clockInstance n bank)[n]? = bank[n]?.map afterEdge := by
  rw [clockInstance_eq_modify]
  exact List.getElem?_modify_eq ..

theorem getElem?_clockInstance_of_ne {m n : Nat} (hmn : m ≠ n) (bank : List State) :
    (clockInstance m bank)[n]? = bank[n]? := by
  rw [clockInstance_eq_modify, List.getElem?_modify_ne _ _ hmn]

/-- Settles O50, by induction on the order of the edges: an edge of the block itself reads its own entry alone, and an
edge of any other leaves that entry as it is. -/
theorem instancesDoNotInterfere : Obligations.InstancesDoNotInterfere := by
  intro order
  induction order with
  | nil => exact fun _ _ _ h => h
  | cons m order ih =>
    intro bank other n h
    rcases eq_or_ne m n with rfl | hmn
    · rw [List.filter_cons, if_pos (beq_self_eq_true m), runBank, runBank]
      apply ih
      rw [getElem?_clockInstance_self, getElem?_clockInstance_self, h]
    · rw [List.filter_cons, if_neg (by simpa using hmn), runBank]
      apply ih
      rw [getElem?_clockInstance_of_ne hmn, h]

end Sys2Proof.Machine

/-! Reset and hazards (70_reset_and_hazards.md): the reset edge (R180, R181), the time before it (R182, R184), the latency
and the earliest following accept (R190), and the command that a reset abandons (R188). -/

namespace Sys2Proof.Machine

/-! ### The reset edge and the time before it -/

/-- Settles O22: the reset edge, whose writes do not depend on the state before it. -/
theorem resetEdgeClearsTheBlock : Obligations.ResetEdgeClearsTheBlock :=
  fun s hr => ⟨_, step_reset hr, rfl, rfl, rfl, rfl, resetEdge_outputs _, rfl, by simp, by simp⟩

/-- Before the first reset edge a presented command has no meaning (70_reset_and_hazards.md R182). -/
theorem exec_unbooted {s : State} (hb : s.booted = false) (i : Instr) : exec i s = .next (unspecifiedEdge s) := by
  rw [exec_eq_present]
  simp [presentCommand, hb]

/-- Settles O24: an edge before the first reset writes unspecified values alone, and the reset edge sets `booted`. -/
theorem powerUpEndsAtTheFirstReset : Obligations.PowerUpEndsAtTheFirstReset := by
  intro s hb
  refine ⟨fun i => ?_, fun hr => ?_, fun hr => ?_⟩
  · exact ⟨_, exec_unbooted hb i, hb, rfl, rfl⟩
  · exact ⟨_, step_unbooted hb hr, by simpa using hb⟩
  · exact ⟨_, step_reset hr, rfl, resetEdge_outputs _⟩

/-! ### Latency -/

/-- Settles O38: fewer than `L` edges after the accept the command is in flight, so the block is busy; after `L` edges it is
completed, so the block is idle. -/
theorem latencyAndEarliestNextAccept : Obligations.LatencyAndEarliestNextAccept := by
  refine ⟨by decide, ?_⟩
  rintro s hb hidle hr hs ⟨-, hrest⟩
  have hstep := step_accept hb hidle hr hs
  have hb' : s.afterSample.booted = true := by simpa using hb
  have hnoReset := hrest _ hstep
  rw [← afterSample_spc] at hnoReset ⊢
  constructor
  · intro j hj
    obtain ⟨v, hrun, hv⟩ := runEdges_accept_inFlight _ _ hb' hj (portsFor_mono (Nat.le_of_lt hj) hnoReset)
    refine ⟨v, (runEdges_succ_of_step hstep j).trans hrun, hv.busy, fun i => ?_⟩
    rw [exec_busy hv.booted hv.busy, edgeWithoutCommand_busy hv.booted hv.busy]
  · obtain ⟨u, hrun, hu, -⟩ := runEdges_accept_completes _ _ hb' hnoReset
    exact ⟨u, (runEdges_succ_of_step hstep _).trans hrun, hu.idle, hu.valid, exec_idle hu.booted hu.idle⟩

/-! ### Where a busy and a valid block come from -/

/-- A block is busy after an edge only by an accept or by being busy before it, and a reset is neither. -/
theorem step_to_busy {s t : State} (hb : s.booted = true) (h : step s = .next t) (hbusy : t.busy = true) :
    s.sampled.rst = false ∧ (s.busy = true ∨ s.busy = false ∧ s.sampled.start = true) := by
  rcases step_cases h with ⟨-, rfl⟩ | ⟨-, hb', -⟩ | ⟨hr, -, hidle, hs, -⟩ | ⟨hr, -, hwas, -⟩ | ⟨-, -, hidle, -, rfl⟩
  · -- a reset edge
    cases hbusy
  · -- an edge before the first reset
    simp [hb] at hb'
  · -- an accept edge
    exact ⟨hr, .inr ⟨hidle, hs⟩⟩
  · -- an advance edge
    exact ⟨hr, .inl hwas⟩
  · -- a hold edge
    simp [hidle] at hbusy

/-- A block is valid after an edge only by being valid before it or by a completing edge. -/
theorem step_to_valid {s t : State} (hb : s.booted = true) (h : step s = .next t) (hvalid : t.valid = true) :
    s.valid = true ∨ s.sampled.rst = false ∧ s.busy = true ∧ s.k.toNat + s.spc.stages = 8 := by
  rcases step_cases h with ⟨-, rfl⟩ | ⟨-, hb', -⟩ | ⟨-, -, -, -, rfl⟩ | ⟨hr, -, hbusy, ha⟩ | ⟨-, -, -, -, rfl⟩
  · -- a reset edge
    cases hvalid
  · -- an edge before the first reset
    simp [hb] at hb'
  · -- an accept edge
    cases hvalid
  · -- an advance edge
    obtain ⟨-, rfl⟩ | ⟨hlast, -⟩ := advance_cases ha
    · exact .inl (by simpa using hvalid)
    · exact .inr ⟨hr, hbusy, by simpa using hlast⟩
  · -- a hold edge
    exact .inl (by simpa using hvalid)

/-! ### Runs, by their last edge -/

theorem runEdges_succ_last {n : Nat} {s u : State} (h : runEdges (n + 1) s = .next u) :
    ∃ t, runEdges n s = .next t ∧ step t = .next u := by
  induction n generalizing s with
  | zero =>
    obtain ⟨t, hstep, hrun⟩ := step_of_runEdges_succ h
    cases hrun
    exact ⟨s, rfl, hstep⟩
  | succ n ih =>
    obtain ⟨s', hstep, hrun⟩ := step_of_runEdges_succ h
    obtain ⟨t, ht, hlast⟩ := ih hrun
    exact ⟨t, (runEdges_succ_of_step hstep n).trans ht, hlast⟩

theorem runEdges_booted {n : Nat} {s t : State} (hb : s.booted = true) (h : runEdges n s = .next t) :
    t.booted = true := by
  induction n generalizing t with
  | zero => cases h; exact hb
  | succ n ih =>
    obtain ⟨u, hrun, hstep⟩ := runEdges_succ_last h
    obtain ⟨-, -, hbooted⟩ := stepFrame u t hstep
    exact hbooted (ih hrun)

/-! ### The accept behind a busy block -/

/-- On the run from `t`, the command in flight at edge `n` was accepted by an idle block at edge `m`: no reset has occurred
from edge `m` on, and the block has been busy at every edge after `m`, edge `n` among them. -/
structure AcceptedAt (t : State) (m n : Nat) : Prop where
  before : m < n
  accepts : ∃ a, runEdges m t = .next a ∧ a.busy = false ∧ a.sampled.start = true
  noReset : ∀ j c, m ≤ j → j < n → runEdges j t = .next c → c.sampled.rst = false
  busy : ∀ j c, m < j → j ≤ n → runEdges j t = .next c → c.busy = true

/-- The block right after its accept edge. -/
theorem acceptedAt_succ_self {t u v : State} {n : Nat} (hu : runEdges n t = .next u) (hidle : u.busy = false)
    (hs : u.sampled.start = true) (hr : u.sampled.rst = false) (hv : runEdges (n + 1) t = .next v)
    (hbusy : v.busy = true) : AcceptedAt t n (n + 1) where
  before := Nat.lt_succ_self n
  accepts := ⟨u, hu, hidle, hs⟩
  noReset j c hle hlt hc := by
    obtain rfl : j = n := by omega
    cases hu.symm.trans hc
    exact hr
  busy j c hlt hle hc := by
    obtain rfl : j = n + 1 := by omega
    cases hv.symm.trans hc
    exact hbusy

/-- One more edge without a reset that leaves the block busy. -/
theorem AcceptedAt.succ {t u v : State} {m n : Nat} (h : AcceptedAt t m n) (hu : runEdges n t = .next u)
    (hr : u.sampled.rst = false) (hv : runEdges (n + 1) t = .next v) (hbusy : v.busy = true) :
    AcceptedAt t m (n + 1) where
  before := Nat.lt_succ_of_lt h.before
  accepts := h.accepts
  noReset j c hle hlt hc := by
    rcases Nat.lt_succ_iff_lt_or_eq.mp hlt with hlt' | rfl
    · exact h.noReset j c hle hlt' hc
    · cases hu.symm.trans hc
      exact hr
  busy j c hlt hle hc := by
    rcases Nat.le_succ_iff.mp hle with hle' | rfl
    · exact h.busy j c hlt hle' hc
    · cases hv.symm.trans hc
      exact hbusy

/-- On a run from an idle block, a busy block has an accept behind it. -/
theorem exists_acceptedAt_of_busy {t v : State} (hb : t.booted = true) (hidle : t.busy = false) {n : Nat}
    (hv : runEdges n t = .next v) (hbusy : v.busy = true) : ∃ m, AcceptedAt t m n := by
  induction n generalizing v with
  | zero =>
    cases hv
    simp [hidle] at hbusy
  | succ n ih =>
    obtain ⟨u, hu, hstep⟩ := runEdges_succ_last hv
    obtain ⟨hr, hwas | ⟨hwas, hs⟩⟩ := step_to_busy (runEdges_booted hb hu) hstep hbusy
    · obtain ⟨m, hm⟩ := ih hu hwas
      exact ⟨m, hm.succ hu hr hv hbusy⟩
    · exact ⟨n, acceptedAt_succ_self hu hwas hs hr hv hbusy⟩

/-- On a run from an idle block that is not valid, a valid block has a completing edge behind it, of a command accepted
on the run. -/
theorem exists_completion_of_valid {t v : State} (hb : t.booted = true) (hidle : t.busy = false)
    (hnot : t.valid = false) {n : Nat} (hv : runEdges n t = .next v) (hvalid : v.valid = true) :
    ∃ m m' b, AcceptedAt t m m' ∧ m' < n ∧ runEdges m' t = .next b ∧ b.sampled.rst = false ∧
      b.k.toNat + b.spc.stages = 8 := by
  induction n generalizing v with
  | zero =>
    cases hv
    simp [hnot] at hvalid
  | succ n ih =>
    obtain ⟨u, hu, hstep⟩ := runEdges_succ_last hv
    rcases step_to_valid (runEdges_booted hb hu) hstep hvalid with hwas | ⟨hr, hbusy, hlast⟩
    · obtain ⟨m, m', b, hm, hlt, hcompletes⟩ := ih hu hwas
      exact ⟨m, m', b, hm, Nat.lt_succ_of_lt hlt, hcompletes⟩
    · obtain ⟨m, hm⟩ := exists_acceptedAt_of_busy hb hidle hu hbusy
      exact ⟨m, n, u, hm, Nat.lt_succ_self n, hu, hr, hlast⟩

/-- Settles O42: the reset edge leaves the block idle and not valid, so a valid block after it has a completing edge and
an accept behind it, both after the reset. -/
theorem resetAbandonsTheCommandInFlight : Obligations.ResetAbandonsTheCommandInFlight := by
  intro s _ hr
  refine ⟨_, step_reset hr, rfl, rfl, fun n v hv hvalid => ?_⟩
  obtain ⟨m, m', b, hm, hlt, hb, hbr, hlast⟩ :=
    exists_completion_of_valid (resetEdge_booted _) (resetEdge_busy _) (resetEdge_valid _) hv hvalid
  obtain ⟨a, ha, hidle, hs⟩ := hm.accepts
  refine ⟨m, m', a, b, hm.before, hlt, ha, hidle, hs, hb, hlast, fun j c hmj hjm' hc => ⟨?_, fun hmj' => ?_⟩⟩
  · rcases Nat.lt_or_eq_of_le hjm' with hj | rfl
    · exact hm.noReset j c hmj hj hc
    · cases hb.symm.trans hc
      exact hbr
  · exact hm.busy j c hmj' hjm' hc

end Sys2Proof.Machine
